-- ==== Sys2Proof/Word.lean ====
section
/-!
DEFINITION. The word types of the SHG core (spec 00_scope.md R8, R14; 20_memory.md R83).
-/

namespace Sys2Proof

/-- One byte of the host address space (20 R83). -/
abbrev Byte := BitVec 8

/-- One 32-bit word: a register, a command header or a bus datum (00 R14, 20 R84). -/
abbrev Word := BitVec 32

/-- A real-valued quantity of the core, held as its IEEE 754 binary32 encoding (00 R8). `bits32` and
`f32` of 00 R14 are the identity on this type. -/
abbrev F32 := BitVec 32

end Sys2Proof
end

