-- ==== Sys2Proof/Syntax.lean ====
section
/-!
DEFINITION. The commands of the SHG core, one constructor per row of spec/opcode_table.json
(30_encoding.md R110 to R114). Every bit of a header below OP is a field, the reserved bits included, so
that each header with a defined OP is exactly one term (30 R121); which terms have their reserved bits
zero is WellFormed.lean. Real operands travel in ARG0..ARG8, not in the header (30 R113).
-/

namespace Sys2Proof

/-- A command header with a defined opcode (30 R111, R112, R114). -/
inductive Instr where
  /-- OP 0x00; A and B reserved. -/
  | nop (a : BitVec 8) (b : BitVec 16)
  /-- OP 0x01; maxVoices = A, blockSize = B. -/
  | prepare (voices : BitVec 8) (block : BitVec 16)
  /-- OP 0x02; numChannels = A, numFrames = B. -/
  | process (channels : BitVec 8) (frames : BitVec 16)
  /-- OP 0x03; A and B[15:8] reserved, ID8 = B[7:0]. -/
  | setParam (a : BitVec 8) (bHigh : BitVec 8) (id : BitVec 8)
  /-- OP 0x04; A and B[15:8] reserved, ID8 = B[7:0]. -/
  | getParam (a : BitVec 8) (bHigh : BitVec 8) (id : BitVec 8)
  /-- OP 0x05; A and B reserved. -/
  | saveParams (a : BitVec 8) (b : BitVec 16)
  /-- OP 0x06; A and B reserved. -/
  | loadParams (a : BitVec 8) (b : BitVec 16)
  /-- OP 0x10; R (bit 23) and F (bit 15) reserved, NOTE = bits 22:16, OFS = bits 14:0. -/
  | noteOn (r : BitVec 1) (note : BitVec 7) (f : BitVec 1) (ofs : BitVec 15)
  /-- OP 0x11; R reserved, NOTE, F = forceOff, OFS. -/
  | noteOff (r : BitVec 1) (note : BitVec 7) (f : BitVec 1) (ofs : BitVec 15)
  /-- OP 0x12; R and B reserved, NOTE. -/
  | noteOnNow (r : BitVec 1) (note : BitVec 7) (b : BitVec 16)
  /-- OP 0x13; R and bits 14:0 reserved, NOTE, F = forceOff. -/
  | noteOffNow (r : BitVec 1) (note : BitVec 7) (f : BitVec 1) (rest : BitVec 15)
  deriving DecidableEq, Repr

end Sys2Proof
end

