-- ==== Sys2Proof/WellFormed.lean ====
section
/-!
DEFINITION. Which headers match their row of spec/opcode_table.json: the reserved bits inside the row's
mask are zero (30_encoding.md R114, R119). A well-formed header may still carry a field out of its range
(30 R117, R123): that is for the command to report. An ill-formed one is a command too; it ends with
BAD_FIELD (30 R119).
-/

namespace Sys2Proof

/-- The reserved bits of the header are zero (30 R114 column "fixed bits", R119). -/
def Instr.wellFormed : Instr → Bool
  | .nop a b => a == 0 && b == 0
  | .prepare _ _ => true
  | .process _ _ => true
  | .setParam a bHigh _ => a == 0 && bHigh == 0
  | .getParam a bHigh _ => a == 0 && bHigh == 0
  | .saveParams a b => a == 0 && b == 0
  | .loadParams a b => a == 0 && b == 0
  | .noteOn r _ f _ => r == 0 && f == 0
  | .noteOff r _ _ _ => r == 0
  | .noteOnNow r _ b => r == 0 && b == 0
  | .noteOffNow r _ _ rest => r == 0 && rest == 0

end Sys2Proof
end

