-- ==== Sys2Proof/Decode.lean ====
section
/-!
DEFINITION. From header words to commands and back (30_encoding.md R110 to R121). The decoder is total:
OP selects the row, every other bit is a field of it, and a reserved OP is rejected by name (30 R118).
-/

namespace Sys2Proof

/-- Why bytes are not a command. -/
inductive DecodeError where
  /-- OP = `op` is one of 0x07-0x0F, 0x14-0xFF (30 R118). -/
  | reservedOpcode (op : BitVec 8)
  /-- Fewer than the four bytes of a header (30 R110). -/
  | truncated (count : Nat)
  deriving DecidableEq, Repr

/-- Bits hi = lo + len − 1 down to lo of a header (00 R14). -/
abbrev headerField (w : Word) (lo len : Nat) : BitVec len := w.extractLsb' lo len

/-- The command a header word is, whatever its reserved bits (30 R111, R112, R114, R121). -/
def decode (w : Word) : Except DecodeError Instr :=
  match headerField w 24 8 with
  | 0x00#8 => .ok (.nop (headerField w 16 8) (headerField w 0 16))
  | 0x01#8 => .ok (.prepare (headerField w 16 8) (headerField w 0 16))
  | 0x02#8 => .ok (.process (headerField w 16 8) (headerField w 0 16))
  | 0x03#8 => .ok (.setParam (headerField w 16 8) (headerField w 8 8) (headerField w 0 8))
  | 0x04#8 => .ok (.getParam (headerField w 16 8) (headerField w 8 8) (headerField w 0 8))
  | 0x05#8 => .ok (.saveParams (headerField w 16 8) (headerField w 0 16))
  | 0x06#8 => .ok (.loadParams (headerField w 16 8) (headerField w 0 16))
  | 0x10#8 => .ok (.noteOn (headerField w 23 1) (headerField w 16 7) (headerField w 15 1) (headerField w 0 15))
  | 0x11#8 => .ok (.noteOff (headerField w 23 1) (headerField w 16 7) (headerField w 15 1) (headerField w 0 15))
  | 0x12#8 => .ok (.noteOnNow (headerField w 23 1) (headerField w 16 7) (headerField w 0 16))
  | 0x13#8 => .ok (.noteOffNow (headerField w 23 1) (headerField w 16 7) (headerField w 15 1) (headerField w 0 15))
  | op => .error (.reservedOpcode op)

/-- The word whose four bytes, lowest address first, are these (20 R83: little-endian). -/
def wordOfBytes (b0 b1 b2 b3 : Byte) : Word := b3 ++ b2 ++ b1 ++ b0

/-- Byte `k` (0..3) of a word, as it lies at byte offset `k` (20 R83). -/
def byteOfWord (w : Word) (k : Nat) : Byte := w.extractLsb' (8 * k) 8

/-- The command at the front of a byte string and the bytes after it; total on any bytes. -/
def decodeBytes : List Byte → Except DecodeError (Instr × List Byte)
  | b0 :: b1 :: b2 :: b3 :: rest =>
    match decode (wordOfBytes b0 b1 b2 b3) with
    | .ok i => .ok (i, rest)
    | .error e => .error e
  | short => .error (.truncated short.length)

/-- The header word of a command (30 R111, R112, R114). -/
def encode : Instr → Word
  | .nop a b => 0x00#8 ++ a ++ b
  | .prepare voices block => 0x01#8 ++ voices ++ block
  | .process channels frames => 0x02#8 ++ channels ++ frames
  | .setParam a bHigh id => 0x03#8 ++ a ++ bHigh ++ id
  | .getParam a bHigh id => 0x04#8 ++ a ++ bHigh ++ id
  | .saveParams a b => 0x05#8 ++ a ++ b
  | .loadParams a b => 0x06#8 ++ a ++ b
  | .noteOn r note f ofs => 0x10#8 ++ r ++ note ++ f ++ ofs
  | .noteOff r note f ofs => 0x11#8 ++ r ++ note ++ f ++ ofs
  | .noteOnNow r note b => 0x12#8 ++ r ++ note ++ b
  | .noteOffNow r note f rest => 0x13#8 ++ r ++ note ++ f ++ rest

/-- The header word a table word of `nbits` bits stands for: the bits above `nbits` are zero. -/
def tableHeader (nbits w : Nat) : Word := BitVec.ofNat 32 (w % 2 ^ nbits)

/-- The four bytes of a table word as the hardware stores them (20 R83). -/
def tableBytes (nbits w : Nat) : List Byte :=
  let h := tableHeader nbits w
  [byteOfWord h 0, byteOfWord h 1, byteOfWord h 2, byteOfWord h 3]

/-- What the decoder reads from a word of spec/opcode_table.json, bit 0 its least significant bit. -/
def decodeTableWord (nbits w : Nat) : Option Instr :=
  match decodeBytes (tableBytes nbits w) with
  | .ok (i, _) => some i
  | .error _ => none

end Sys2Proof
end

