-- ==== Sys2Proof/Config.lean ====
section
/-!
DEFINITION. What this implementation fixes (00_scope.md R6, R11; 10_state.md R34) and the values no
rule of the spec fixes (the opaque constants at the end; log entries 5 and 6).
-/

namespace Sys2Proof.Config

/-! ## Implementation parameters (00 R6) -/

/-- Voice slots built in. -/
abbrev maxVoices : Nat := 16
/-- Largest block size; frames per output channel. -/
abbrev maxBlock : Nat := 4096
/-- Output channels. -/
abbrev maxChannels : Nat := 2
/-- Event queue capacity. -/
abbrev eqCap : Nat := 64
/-- Words of one waveguide rail. -/
abbrev cap : Nat := 32768
/-- Samples of a horn-type crossfade. -/
abbrev xfLen : Nat := 256
/-- Entries of the parameter table (10 R40). -/
abbrev paramCount : Nat := 31

/-- FS_MIN = 8000.0. -/
abbrev fsMin : F32 := 0x45FA0000#32
/-- FS_MAX = 192000.0. -/
abbrev fsMax : F32 := 0x483B8000#32

/-! ## Identity registers (00 R3, 10 R34) -/

abbrev idWord : Word := 0x53484731#32
abbrev versionWord : Word := 0x00000001#32
abbrev capsWord : Word := 0x04020210#32
abbrev caps2Word : Word := 0x00401000#32

/-- The MAGIC word of a preset image (45 R300). -/
abbrev presetMagic : Word := 0x47485031#32

/-! ## Named binary32 constants (00 R11) -/

abbrev twoPi : F32 := 0x40C90FDB#32
abbrev cSound : F32 := 0x43AB8000#32
abbrev kp : F32 := 0x3DCCCCCD#32
abbrev ki : F32 := 0x3A83126F#32
abbrev iLim : F32 := 0x3DCCCCCD#32
abbrev k0_999 : F32 := 0x3F7FBE77#32
abbrev k3_99 : F32 := 0x407F5C29#32
abbrev k0_2 : F32 := 0x3E4CCCCD#32
abbrev k0_1 : F32 := 0x3DCCCCCD#32
abbrev k0_02 : F32 := 0x3CA3D70A#32
abbrev k0_45 : F32 := 0x3EE66666#32
abbrev k0_005 : F32 := 0x3BA3D70A#32
abbrev k0_15 : F32 := 0x3E19999A#32
abbrev k0_002 : F32 := 0x3B03126F#32
abbrev silence : F32 := 0x38D1B717#32

/-! ## The other decimal constants, exact in binary32 (00 R11) -/

abbrev zero : F32 := 0x00000000#32
abbrev quarter : F32 := 0x3E800000#32
abbrev half : F32 := 0x3F000000#32
abbrev threeQuarters : F32 := 0x3F400000#32
abbrev one : F32 := 0x3F800000#32
abbrev oneAndHalf : F32 := 0x3FC00000#32
abbrev two : F32 := 0x40000000#32
abbrev three : F32 := 0x40400000#32
abbrev four : F32 := 0x40800000#32
abbrev nine : F32 := 0x41100000#32
abbrev twelve : F32 := 0x41400000#32
abbrev twenty : F32 := 0x41A00000#32
abbrev forty : F32 := 0x42200000#32
abbrev hundred : F32 := 0x42C80000#32
abbrev f1024 : F32 := 0x44800000#32
abbrev minusOne : F32 := 0xBF800000#32
abbrev minusTwo : F32 := 0xC0000000#32
abbrev minusF1024 : F32 := 0xC4800000#32
abbrev minusILim : F32 := 0xBDCCCCCD#32
/-- VOICE_LIM = 2.0 (00 R6). -/
abbrev voiceLim : F32 := two
/-- SUM_LIM = 3.0 (00 R6). -/
abbrev sumLim : F32 := three
/-- −SUM_LIM. -/
abbrev minusSumLim : F32 := 0xC0400000#32

/-! ## Values no rule fixes -/

/-- The sign bit (bit 22) and the payload (bits 21:0) of the quiet NaN an invalid operation on these two
operands gives. The spec has no NaN rule (60 R322): a free value, log entry 5. -/
opaque nanSignPayload : F32 → F32 → BitVec 23

/-- The four correctly rounded elementary functions of 00 R10. -/
inductive CrFn where
  | exp | sin | cos | pow10
  deriving DecidableEq, Repr

/-- Which of the two candidates a correctly rounded function takes at an argument where the model's
enclosure does not separate them (true: the upper one). A free value, log entry 6. -/
opaque crUpper : CrFn → F32 → Bool

end Sys2Proof.Config
end

