-- ==== Sys2Proof/Machine/Params.lean ====
section
/-!
DEFINITION. The parameter table's rows: id, kind, domain and reset value of each of the 31 parameters
(10_state.md R40). The values held are State.params; here is what each parameter is.
-/

namespace Sys2Proof.Machine

/-- The parameters, in table order: ascending id (10 R40). -/
inductive Param where
  | lipTension | mouthPressure | nonlinearity | chaosThreshold | growlAmount | lipMass | lipStiffness
  | flareFactor | lengthMeters | reflectionCoeff | lossPerMeter | brightness | warmth | metalness
  | boreShape | hornType | bellCutoff | sub1Mix | sub1Num | sub1Den | sub2Mix | sub2Num | sub2Den
  | customFreq0 | customFreq1 | customFreq2 | customFreq3
  | customGain0 | customGain1 | customGain2 | customGain3
  deriving DecidableEq, Repr

/-- The kind of a parameter (10 R40). -/
inductive ParamKind where
  | real | int | enum
  deriving DecidableEq, Repr

/-- One row of the table of 10 R40. -/
structure ParamRow where
  id : BitVec 8
  kind : ParamKind
  lo : F32
  hi : F32
  reset : F32
  deriving DecidableEq, Repr

/-- The table of 10 R40. -/
def paramRow : Param → ParamRow
  | .lipTension      => ⟨0x00#8, .real, 0x00000000#32, 0x3F800000#32, 0x3F000000#32⟩
  | .mouthPressure   => ⟨0x01#8, .real, 0x00000000#32, 0x3F800000#32, 0x3F333333#32⟩
  | .nonlinearity    => ⟨0x02#8, .real, 0x00000000#32, 0x3F800000#32, 0x3E99999A#32⟩
  | .chaosThreshold  => ⟨0x03#8, .real, 0x00000000#32, 0x3F800000#32, 0x3F4CCCCD#32⟩
  | .growlAmount     => ⟨0x04#8, .real, 0x00000000#32, 0x3F800000#32, 0x00000000#32⟩
  | .lipMass         => ⟨0x05#8, .real, 0x00000000#32, 0x3F800000#32, 0x3F000000#32⟩
  | .lipStiffness    => ⟨0x06#8, .real, 0x00000000#32, 0x3F800000#32, 0x3F000000#32⟩
  | .flareFactor     => ⟨0x07#8, .real, 0x00000000#32, 0x3F800000#32, 0x3F000000#32⟩
  | .lengthMeters    => ⟨0x08#8, .real, 0x3D4CCCCD#32, 0x41A00000#32, 0x40400000#32⟩
  | .reflectionCoeff => ⟨0x09#8, .real, 0x00000000#32, 0x3F800000#32, 0x3F733333#32⟩
  | .lossPerMeter    => ⟨0x0A#8, .real, 0x00000000#32, 0x3F800000#32, 0x3C23D70A#32⟩
  | .brightness      => ⟨0x0B#8, .real, 0x00000000#32, 0x3F800000#32, 0x3F000000#32⟩
  | .warmth          => ⟨0x0C#8, .real, 0x00000000#32, 0x3F800000#32, 0x3F000000#32⟩
  | .metalness       => ⟨0x0D#8, .real, 0x00000000#32, 0x3F800000#32, 0x00000000#32⟩
  | .boreShape       => ⟨0x10#8, .enum, 0x00000000#32, 0x40400000#32, 0x00000000#32⟩
  | .hornType        => ⟨0x11#8, .enum, 0x00000000#32, 0x40A00000#32, 0x00000000#32⟩
  | .bellCutoff      => ⟨0x12#8, .real, 0x41A00000#32, 0x469C4000#32, 0x457A0000#32⟩
  | .sub1Mix         => ⟨0x13#8, .real, 0x00000000#32, 0x3F800000#32, 0x3E99999A#32⟩
  | .sub1Num         => ⟨0x14#8, .int,  0x3F800000#32, 0x41800000#32, 0x3F800000#32⟩
  | .sub1Den         => ⟨0x15#8, .int,  0x3F800000#32, 0x41800000#32, 0x40000000#32⟩
  | .sub2Mix         => ⟨0x16#8, .real, 0x00000000#32, 0x3F800000#32, 0x00000000#32⟩
  | .sub2Num         => ⟨0x17#8, .int,  0x3F800000#32, 0x41800000#32, 0x40000000#32⟩
  | .sub2Den         => ⟨0x18#8, .int,  0x3F800000#32, 0x41800000#32, 0x40400000#32⟩
  | .customFreq0     => ⟨0x20#8, .real, 0x41A00000#32, 0x469C4000#32, 0x43FA0000#32⟩
  | .customFreq1     => ⟨0x21#8, .real, 0x41A00000#32, 0x469C4000#32, 0x447A0000#32⟩
  | .customFreq2     => ⟨0x22#8, .real, 0x41A00000#32, 0x469C4000#32, 0x44FA0000#32⟩
  | .customFreq3     => ⟨0x23#8, .real, 0x41A00000#32, 0x469C4000#32, 0x457A0000#32⟩
  | .customGain0     => ⟨0x24#8, .real, 0xC1C00000#32, 0x41C00000#32, 0x00000000#32⟩
  | .customGain1     => ⟨0x25#8, .real, 0xC1C00000#32, 0x41C00000#32, 0x00000000#32⟩
  | .customGain2     => ⟨0x26#8, .real, 0xC1C00000#32, 0x41C00000#32, 0x00000000#32⟩
  | .customGain3     => ⟨0x27#8, .real, 0xC1C00000#32, 0x41C00000#32, 0x00000000#32⟩

/-- Every parameter in table order. -/
def allParams : List Param :=
  [.lipTension, .mouthPressure, .nonlinearity, .chaosThreshold, .growlAmount, .lipMass, .lipStiffness,
   .flareFactor, .lengthMeters, .reflectionCoeff, .lossPerMeter, .brightness, .warmth, .metalness,
   .boreShape, .hornType, .bellCutoff, .sub1Mix, .sub1Num, .sub1Den, .sub2Mix, .sub2Num, .sub2Den,
   .customFreq0, .customFreq1, .customFreq2, .customFreq3,
   .customGain0, .customGain1, .customGain2, .customGain3]

/-- The rank of a parameter in table order: k of id_k (45 R300). -/
def paramRank : Param → Fin Config.paramCount
  | .lipTension => 0 | .mouthPressure => 1 | .nonlinearity => 2 | .chaosThreshold => 3
  | .growlAmount => 4 | .lipMass => 5 | .lipStiffness => 6 | .flareFactor => 7
  | .lengthMeters => 8 | .reflectionCoeff => 9 | .lossPerMeter => 10 | .brightness => 11
  | .warmth => 12 | .metalness => 13 | .boreShape => 14 | .hornType => 15
  | .bellCutoff => 16 | .sub1Mix => 17 | .sub1Num => 18 | .sub1Den => 19
  | .sub2Mix => 20 | .sub2Num => 21 | .sub2Den => 22
  | .customFreq0 => 23 | .customFreq1 => 24 | .customFreq2 => 25 | .customFreq3 => 26
  | .customGain0 => 27 | .customGain1 => 28 | .customGain2 => 29 | .customGain3 => 30

/-- The parameter with an id; none for an unknown id (45 R296). -/
def paramOfId (id : BitVec 8) : Option Param := allParams.find? fun p => (paramRow p).id == id

/-- The table's power-on values (10 R40, R41). -/
def paramResets : Vector F32 Config.paramCount :=
  ⟨(allParams.map fun p => (paramRow p).reset).toArray, by decide⟩

end Sys2Proof.Machine
end

