-- ==== Sys2Proof/Machine/State.lean ====
section
/-!
DEFINITION. The whole state of the SHG core (10_state.md R30 to R56) as plain data, the reasons a step can
stop, and the state after reset (70_reset_and_hazards.md R351).
-/

namespace Sys2Proof.Machine

/-! ## Outcomes -/

/-- Why a step stops with a fault. -/
inductive Fault where
  /-- The host made an access that is not an aligned 32-bit word access (20 R84). Raised by
  Machine/Execute.lean's `access`. Safe: the spec has the host program faulted at that access, with the
  core's state unchanged (20 R87, 93 section 1). -/
  | busError (addr : Word)
  deriving DecidableEq, Repr

/-- Why a step has no meaning. -/
inductive Refusal where
  /-- A command not modelled. Raised by no arm of Machine/Dispatch.lean: every command has its meaning.
  Safe. -/
  | notModelled (mnemonic : String)
  deriving DecidableEq, Repr

/-- The result codes (60 R320). -/
inductive ResultCode where
  | ok | notPrepared | badOpcode | badField | unknownParam | valueClamped | badValue | eqFull | presetInvalid
  deriving DecidableEq, Repr

/-! ## Sparse memories -/

/-- The host-addressed memories OUT and PRESET as bytes by address (10 R53, R54; 20 R81, R83). An address
that is not listed reads as zero (log entry 3). -/
abbrev Memory := List Host.Cell

/-- One waveguide rail: binary32 words by index 0..CAP−1 (10 R46). An index that is not listed holds +0.0
(log entry 14). -/
abbrev Rail := List (Nat × F32)

/-! ## Voice slots (10 R43 to R48, R55) -/

/-- The state of a voice slot (10 R55). Value 3 of the 2-bit field is never held. -/
inductive VoiceState where
  | idle | sounding | releasing
  deriving DecidableEq, Repr

/-- The nine values of a note-on, in ARG0..ARG8 order (30 R113, 44 R243). -/
structure Gesture where
  velocity : F32
  force : F32
  speed : F32
  contactArea : F32
  roughness : F32
  scaleMeters : F32
  massBias : F32
  airLoss : F32
  transientSlowing : F32
  deriving DecidableEq, Repr

/-- One PLL phase channel (10 R44). -/
structure PllChannel where
  /-- φ_meas -/
  pm : F32
  integ : F32
  /-- reference cycles modulo den_j -/
  k : BitVec 4
  incSub : F32
  deriving DecidableEq, Repr

/-- The PLL of a slot (10 R44). -/
structure Pll where
  /-- φ_ref -/
  pref : F32
  incRef : F32
  ch0 : PllChannel
  ch1 : PllChannel
  deriving DecidableEq, Repr

/-- The exciter of a slot (10 R45). -/
structure Exciter where
  x : F32
  v : F32
  z : F32
  peff : F32
  meff : F32
  geff : F32
  aeff : F32
  wl : F32
  /-- K -/
  stiff : F32
  cd : F32
  mu : F32
  deriving DecidableEq, Repr

/-- The waveguide of a slot (10 R46). -/
structure Waveguide where
  fwd : Rail
  bwd : Rail
  w : BitVec 15
  gl : F32
  rg : F32
  deriving DecidableEq, Repr

/-- The bell filter of a slot (10 R47); `out` is the spec's `by`. -/
structure Bell where
  out : F32
  ba : F32
  bb : F32
  deriving DecidableEq, Repr

/-- The five coefficients of a biquad section (10 R48). -/
structure Coeffs where
  b0 : F32
  b1 : F32
  b2 : F32
  a1 : F32
  a2 : F32
  deriving DecidableEq, Repr

/-- The four state words of a biquad section (10 R48). -/
structure SecState where
  x1 : F32
  x2 : F32
  y1 : F32
  y2 : F32
  deriving DecidableEq, Repr

/-- A biquad section (10 R48). -/
structure Section where
  c : Coeffs
  h : SecState
  deriving DecidableEq, Repr

/-- A bank of N_FORMANT = 4 sections (10 R48). -/
structure Bank where
  s0 : Section
  s1 : Section
  s2 : Section
  s3 : Section
  deriving DecidableEq, Repr

/-- The formant state of a slot (10 R48). -/
structure Formant where
  bank0 : Bank
  bank1 : Bank
  cur : BitVec 1
  xf : BitVec 9
  deriving DecidableEq, Repr

/-- A voice slot (10 R43). -/
structure Voice where
  state : VoiceState
  forceOff : Bool
  note : BitVec 7
  g : Gesture
  stamp : BitVec 32
  f : F32
  e : F32
  aAtt : F32
  rRel : F32
  pll : Pll
  exc : Exciter
  wg : Waveguide
  bell : Bell
  fmt : Formant
  deriving DecidableEq, Repr

/-! ## Event queue (10 R49) -/

/-- The kind of an event with its payload. -/
inductive EventKind where
  | noteOn (g : Gesture)
  | noteOff (forceOff : Bool)
  deriving DecidableEq, Repr

/-- A scheduled event. -/
structure Event where
  kind : EventKind
  note : BitVec 7
  offset : BitVec 15
  seq : BitVec 32
  deriving DecidableEq, Repr

/-! ## The host's side (log entries 1, 2 and 17) -/

/-- The width of a bus access (20 R84). -/
inductive Width where
  | byte | half | word | double
  deriving DecidableEq, Repr

/-- What the host does next. -/
inductive HostAct where
  /-- MemRead(addr, width) -/
  | read (addr : Word) (width : Width)
  /-- MemWrite(addr, width, data); data is read only where the width is a word -/
  | write (addr : Word) (width : Width) (data : Word)
  /-- assert the reset input (70 R350) -/
  | reset
  deriving DecidableEq, Repr

/-! ## The state -/

/-- The SHG core's state, in the order of 10 R30, and the host's accesses to come. -/
structure State where
  /-- ARG0..ARG8 (10 R31) -/
  args : Vector Word 9
  /-- CMD (10 R32) -/
  cmd : Word
  /-- STATUS bit 0 (10 R35) -/
  prepared : Bool
  /-- ERROR bits 7:0 (10 R36) -/
  error : BitVec 8
  /-- RESULT (10 R37) -/
  result : ResultCode
  /-- RDATA (10 R38) -/
  rdata : Word
  /-- SAMPLE_RATE (10 R39) -/
  sampleRate : F32
  /-- BLOCK_SIZE (10 R39) -/
  blockSize : Word
  /-- MAX_VOICES_CFG (10 R39) -/
  maxVoicesCfg : Word
  /-- the parameter table P, by rank (10 R40) -/
  params : Vector F32 Config.paramCount
  /-- M (10 R42) -/
  delay : BitVec 15
  /-- WG_FUND (10 R42) -/
  wgFund : F32
  /-- R_EFF (10 R42) -/
  rEff : F32
  /-- R_FAST (10 R42) -/
  rFast : F32
  /-- r[0] (10 R42) -/
  ratio0 : F32
  /-- r[1] (10 R42) -/
  ratio1 : F32
  /-- V[0..15] (10 R43) -/
  voices : Vector Voice Config.maxVoices
  /-- the event queue, head first (10 R49) -/
  queue : List Event
  /-- NEXT_SEQ (10 R49) -/
  nextSeq : BitVec 32
  /-- TRIGGER_COUNTER (10 R50) -/
  triggerCounter : BitVec 32
  /-- SAMPLE_COUNT_HI:SAMPLE_COUNT_LO (10 R50) -/
  sampleCount : BitVec 64
  /-- CLIP_COUNT (10 R50) -/
  clipCount : BitVec 32
  /-- OUT and PRESET (10 R53, R54) -/
  mem : Memory
  /-- the model's own: the host's accesses still to come, first one next (log entry 1) -/
  pending : List HostAct
  /-- the model's own: the word the host's last read returned (log entry 2) -/
  response : Option Word
  deriving DecidableEq, Repr

/-! ## Reset (70 R350, R351) -/

/-- All-zero gesture values of a slot never triggered (log entry 4). -/
def Gesture.zero : Gesture := ⟨0, 0, 0, 0, 0, 0, 0, 0, 0⟩

/-- All-zero section (log entry 4). -/
def Section.zero : Section := ⟨⟨0, 0, 0, 0, 0⟩, ⟨0, 0, 0, 0⟩⟩

/-- All-zero bank (log entry 4). -/
def Bank.zero : Bank := ⟨Section.zero, Section.zero, Section.zero, Section.zero⟩

/-- A voice slot at power-on: Idle, forceOff 0 (70 R351); every other field is unspecified by the spec and
zero here (log entry 4). -/
def Voice.reset : Voice where
  state := .idle
  forceOff := false
  note := 0
  g := Gesture.zero
  stamp := 0
  f := 0
  e := 0
  aAtt := 0
  rRel := 0
  pll := ⟨0, 0, ⟨0, 0, 0, 0⟩, ⟨0, 0, 0, 0⟩⟩
  exc := ⟨0, 0, 0, 0, 0, 0, 0, 0, 0, 0, 0⟩
  wg := ⟨[], [], 0, 0, 0⟩
  bell := ⟨0, 0, 0⟩
  fmt := ⟨Bank.zero, Bank.zero, 0, 0⟩

/-- The state after power-on reset (70 R351). -/
def State.reset : State where
  args := Vector.replicate 9 0
  cmd := 0
  prepared := false
  error := 0
  result := .ok
  rdata := 0
  sampleRate := 0
  blockSize := 0
  maxVoicesCfg := 0
  params := paramResets
  delay := 1
  wgFund := 0
  rEff := 0
  rFast := 0
  ratio0 := 0x3F000000#32
  ratio1 := 0x3F2AAAAB#32
  voices := Vector.replicate Config.maxVoices Voice.reset
  queue := []
  nextSeq := 0
  triggerCounter := 0
  sampleCount := 0
  clipCount := 0
  mem := []
  pending := []
  response := none

end Sys2Proof.Machine
end

