-- ==== Sys2Proof/Machine/Ops.lean ====
section
/-!
DEFINITION. The named operations over memories, registers and voice slots, and the one operation that ends
a command. The core takes no exception and returns from none (60_exceptions.md R325, R326); the analogue of
taking an exception is `endCommand`: RESULT and the sticky ERROR bit are written and nothing else
(45_commands.md R270, 60 R320, R321).
-/

namespace Sys2Proof.Machine

/-! ## Sparse stores: ascending keys, no entry equal to the unlisted value 0 -/

/-- The value at key `a`; an unlisted key holds 0 (log entries 3 and 14). -/
def storeRead {w : Nat} : List (Nat × BitVec w) → Nat → BitVec w
  | [], _ => 0
  | (k, u) :: rest, a => if k = a then u else storeRead rest a

/-- Put an entry before the first larger key. -/
def storeInsert {w : Nat} (a : Nat) (v : BitVec w) : List (Nat × BitVec w) → List (Nat × BitVec w)
  | [] => [(a, v)]
  | (k, u) :: rest => if a < k then (a, v) :: (k, u) :: rest else (k, u) :: storeInsert a v rest

/-- Write `v` at key `a`: writing the unlisted value removes the entry. -/
def storeWrite {w : Nat} (m : List (Nat × BitVec w)) (a : Nat) (v : BitVec w) : List (Nat × BitVec w) :=
  let others := m.filter fun c => c.1 != a
  if v = 0 then others else storeInsert a v others

/-- The canonical form: keys strictly rising, no entry holding the unlisted value. -/
abbrev storeWf {w : Nat} (m : List (Nat × BitVec w)) : Prop :=
  m.Pairwise (fun c d => c.1 < d.1) ∧ ∀ c ∈ m, c.2 ≠ 0

/-- The canonical form of the host memory. -/
abbrev Memory.wf (m : Memory) : Prop := storeWf m

/-! ## The host memory: OUT and PRESET (10 R53, R54; 20 R81, R83) -/

/-- First byte address of OUT. -/
abbrev outBase : Nat := 0x10000
/-- Bytes between the channels of OUT. -/
abbrev outStride : Nat := 0x4000
/-- First byte address after OUT. -/
abbrev outEnd : Nat := 0x18000
/-- First byte address of PRESET. -/
abbrev presetBase : Nat := 0x20000
/-- First byte address after PRESET: 64 words. -/
abbrev presetEnd : Nat := 0x20100

/-- The byte at an address. -/
def readByte (m : Memory) (a : Nat) : Byte := storeRead m a

/-- The word at an aligned address, little-endian (20 R83). -/
def readWord (m : Memory) (a : Nat) : Word :=
  wordOfBytes (readByte m a) (readByte m (a + 1)) (readByte m (a + 2)) (readByte m (a + 3))

/-- Store a word at an aligned address, little-endian (20 R83). -/
def writeWord (m : Memory) (a : Nat) (v : Word) : Memory :=
  storeWrite (storeWrite (storeWrite (storeWrite m a (byteOfWord v 0)) (a + 1) (byteOfWord v 1))
    (a + 2) (byteOfWord v 2)) (a + 3) (byteOfWord v 3)

/-- The byte address of OUT[c][n] (10 R53). -/
def outAddr (c n : Nat) : Nat := outBase + outStride * c + 4 * n

/-- The byte address of PRESET[i] (10 R54). -/
def presetAddr (i : Nat) : Nat := presetBase + 4 * i

/-- Every word of OUT ← 0x00000000 (45 R290). -/
def clearOut (m : Memory) : Memory := m.filter fun c => !(decide (outBase ≤ c.1) && decide (c.1 < outEnd))

/-! ## Registers -/

/-- f32(ARG[i]) (30 R113, R116). -/
def argValue (s : State) (i : Fin 9) : F32 := s.args[i]

/-- P[p] (00 R15). -/
def param (s : State) (p : Param) : F32 := s.params[paramRank p]

/-- P[p] ← x (00 R15). -/
def setParam (s : State) (p : Param) (x : F32) : State :=
  { s with params := s.params.set (paramRank p) x }

/-- V[i] (00 R15). -/
def voice (s : State) (i : Fin 16) : Voice := s.voices[i]

/-- V[i] ← v (00 R15). -/
def setVoice (s : State) (i : Fin 16) (v : Voice) : State := { s with voices := s.voices.set i v }

/-- The slots in index order. -/
def allSlots : List (Fin 16) := [0, 1, 2, 3, 4, 5, 6, 7, 8, 9, 10, 11, 12, 13, 14, 15]

/-- Slot i is in use: i < MAX_VOICES_CFG (10 R39). -/
def inUse (s : State) (i : Fin 16) : Bool := decide (i.val < s.maxVoicesCfg.toNat)

/-- V[i].state ≠ Idle: D0's isActive (10 R55). -/
def Voice.active (v : Voice) : Bool := v.state != .idle

/-- Apply f to every live slot: i < MAX_VOICES_CFG with state ≠ Idle (45 R303). -/
def mapLive (f : Voice → Voice) (s : State) : State :=
  { s with voices := Vector.ofFn fun i =>
      if inUse s i && (voice s i).active then f (voice s i) else voice s i }

/-! ## Ending a command (45 R270, 60 R320, R321) -/

/-- How a command's rule ends. A failing command carries no state: it has changed nothing (60 R321). -/
inductive CmdResult where
  /-- `raise CmdError(c)`, c ≠ VALUE_CLAMPED, before any effect -/
  | failed (c : ResultCode)
  /-- the whole effect took place; `clamped` says the code is VALUE_CLAMPED, else OK -/
  | done (s : State) (clamped : Bool)

/-- The number of a result code (60 R320). -/
def ResultCode.num : ResultCode → Nat
  | .ok => 0
  | .notPrepared => 1
  | .badOpcode => 2
  | .badField => 3
  | .unknownParam => 4
  | .valueClamped => 5
  | .badValue => 6
  | .eqFull => 7
  | .presetInvalid => 8

/-- The ERROR bit of a code: bit c − 1 for c ≠ 0, none for OK (10 R36). -/
def errorBit (c : ResultCode) : BitVec 8 :=
  if c = .ok then 0 else BitVec.ofNat 8 (2 ^ (c.num - 1))

/-- reg[RESULT] ← code; if code ≠ 0 then reg[ERROR] ← reg[ERROR] OR (1 << (code − 1)) (45 R270). -/
def endCommand (s : State) (c : ResultCode) : State :=
  { s with result := c, error := s.error ||| errorBit c }

/-- End a command run from `s` by what its rule answered (45 R270, 60 R321). -/
def finish (s : State) : CmdResult → State
  | .failed c => endCommand s c
  | .done t false => endCommand t .ok
  | .done t true => endCommand t .valueClamped

end Sys2Proof.Machine
end

