-- ==== Sys2Proof/Machine/Flags.lean ====
section
/-!
DEFINITION. The flags and the words computed when a register is read: STATUS, ERROR, RESULT and the
introspection registers (10_state.md R35, R36, R37, R51). There are no condition codes and no
floating-point flags (10 R57).
-/

namespace Sys2Proof.Machine

/-- STATUS (10 R35): PREPARED, EQ_NONEMPTY, EQ_FULL; bits 31:3 read 0. -/
def statusWord (s : State) : Word :=
  (if s.prepared then 1#32 else 0#32)
    ||| (if s.queue.length ≠ 0 then 2#32 else 0#32)
    ||| (if Config.eqCap ≤ s.queue.length then 4#32 else 0#32)

/-- ERROR (10 R36): bits 31:8 read 0. -/
def errorWord (s : State) : Word := s.error.zeroExtend 32

/-- A host write of `w` to ERROR clears every bit that is 1 in `w` (10 R36). -/
def clearErrors (s : State) (w : Word) : State := { s with error := s.error &&& ~~~(w.truncate 8) }

/-- RESULT (10 R37): the code of the last command; bits 31:4 read 0. -/
def resultWord (s : State) : Word := BitVec.ofNat 32 s.result.num

/-- The 2-bit encoding of a voice state (10 R55). -/
def VoiceState.num : VoiceState → Nat
  | .idle => 0
  | .sounding => 1
  | .releasing => 2

/-- ACTIVE_COUNT (10 R51): slots i < MAX_VOICES_CFG with V[i].state ≠ Idle. -/
def activeCount (s : State) : Nat :=
  (allSlots.filter fun i => inUse s i && (voice s i).active).length

/-- ACTIVE_MASK (10 R51): bit i = 1 if V[i].state ≠ Idle, i = 0..15. -/
def activeMask (s : State) : Word :=
  allSlots.foldl (fun m i => if (voice s i).active then m ||| BitVec.ofNat 32 (2 ^ i.val) else m) 0

/-- VOICE_STATE (10 R51): bits [2i+1:2i] = V[i].state, i = 0..15. -/
def voiceStateWord (s : State) : Word :=
  allSlots.foldl (fun m i => m ||| BitVec.ofNat 32 ((voice s i).state.num * 2 ^ (2 * i.val))) 0

end Sys2Proof.Machine
end

