-- ==== Sys2Proof/Machine/Float.lean ====
section
/-!
DEFINITION. IEEE 754 binary32 arithmetic, round to nearest, ties to even, no fusion, subnormals kept, no
flags (00_scope.md R8), and the exact helpers of R9. A finite binary32 value is a whole number of units of
2^-149; every operation computes the exact result as a fraction of units and rounds it once. The format is
general knowledge in the spec (93 section 3); log entry 7.
-/

namespace Sys2Proof.Machine

/-- The sign bit. -/
def fsign (x : F32) : Bool := x.msb

/-- The magnitude bits 30:0. On numbers they order as the magnitudes do. -/
def fmag (x : F32) : Nat := x.toNat % 2 ^ 31

/-- x is a NaN. -/
def fisNaN (x : F32) : Bool := decide (0x7F800000 < fmag x)

/-- x is +∞ or −∞. -/
def fisInf (x : F32) : Bool := fmag x == 0x7F800000

/-- x is neither NaN nor infinite. -/
def ffinite (x : F32) : Bool := decide (fmag x < 0x7F800000)

/-- |x| in units of 2^-149, for finite x. -/
def magUnits (x : F32) : Nat :=
  let m := fmag x
  let e := m / 2 ^ 23
  if e = 0 then m else (2 ^ 23 + m % 2 ^ 23) * 2 ^ (e - 1)

/-- x in units of 2^-149, for finite x. -/
def units (x : F32) : Int := if fsign x then -(magUnits x : Int) else (magUnits x : Int)

/-- The number of units of 2^-149 in 1.0. -/
abbrev unitsPerOne : Nat := 2 ^ 149

/-- The encoding with this sign and these magnitude bits (below 2^31). -/
def withSign (neg : Bool) (mag : Nat) : F32 := BitVec.ofNat 32 (if neg then 2 ^ 31 + mag else mag)

/-- The magnitude bits of the binary32 value nearest to num/den units of 2^-149, ties to even; overflow
gives the magnitude of infinity. `den` is positive. -/
def roundMag (num den : Nat) : Nat :=
  let shift := (num / den).log2 - 23
  let unit := den * 2 ^ shift
  let q := num / unit
  let r := num % unit
  let q' := if unit < 2 * r ∨ (2 * r = unit ∧ q % 2 = 1) then q + 1 else q
  min (shift * 2 ^ 23 + q') 0x7F800000

/-- The binary32 value nearest to ±num/den units of 2^-149, ties to even (R8). -/
def roundUnits (neg : Bool) (num den : Nat) : F32 := withSign neg (roundMag num den)

/-- The quiet NaN of an invalid operation; its sign and payload are free (log entry 5). -/
def invalidResult (a b : F32) : F32 :=
  let p := Config.nanSignPayload a b
  withSign p.msb (0x7FC00000 + p.toNat % 2 ^ 22)

/-- −x flips the sign bit (R9). -/
def fneg (x : F32) : F32 := x ^^^ 0x80000000#32

/-- abs(x) clears the sign bit (R9). -/
def fabs (x : F32) : F32 := x &&& 0x7FFFFFFF#32

/-- The order key of a number: its magnitude bits with its sign. −0.0 and +0.0 have the same key. -/
def fkey (x : F32) : Int := if fsign x then -(fmag x : Int) else (fmag x : Int)

/-- a < b as numbers; false if either is a NaN. -/
def flt (a b : F32) : Bool := !fisNaN a && !fisNaN b && decide (fkey a < fkey b)

/-- a ≤ b as numbers; false if either is a NaN. -/
def fle (a b : F32) : Bool := !fisNaN a && !fisNaN b && decide (fkey a ≤ fkey b)

/-- a = b as numbers (−0.0 = +0.0); false if either is a NaN. -/
def feq (a b : F32) : Bool := !fisNaN a && !fisNaN b && decide (fkey a = fkey b)

/-- a + b (R8). -/
def fadd (a b : F32) : F32 :=
  if fisNaN a || fisNaN b then invalidResult a b
  else if fisInf a then (if fisInf b && (fsign a != fsign b) then invalidResult a b else a)
  else if fisInf b then b
  else
    let sum := units a + units b
    if sum = 0 then withSign (fsign a && fsign b) 0 else roundUnits (decide (sum < 0)) sum.natAbs 1

/-- a − b (R8). -/
def fsub (a b : F32) : F32 := fadd a (fneg b)

/-- a × b (R8). -/
def fmul (a b : F32) : F32 :=
  let neg := fsign a != fsign b
  if fisNaN a || fisNaN b then invalidResult a b
  else if fisInf a || fisInf b then
    (if fmag a == 0 || fmag b == 0 then invalidResult a b else withSign neg 0x7F800000)
  else roundUnits neg (magUnits a * magUnits b) unitsPerOne

/-- a ÷ b (R8). -/
def fdiv (a b : F32) : F32 :=
  let neg := fsign a != fsign b
  if fisNaN a || fisNaN b then invalidResult a b
  else if fisInf a then (if fisInf b then invalidResult a b else withSign neg 0x7F800000)
  else if fisInf b then withSign neg 0
  else if fmag b == 0 then (if fmag a == 0 then invalidResult a b else withSign neg 0x7F800000)
  else roundUnits neg (magUnits a * unitsPerOne) (magUnits b)

/-- min(a,b) returns a if a < b, else b (R9). -/
def fmin (a b : F32) : F32 := if flt a b then a else b

/-- max(a,b) returns a if a > b, else b (R9). -/
def fmax (a b : F32) : F32 := if flt b a then a else b

/-- clamp(x, lo, hi) = min(max(x, lo), hi) (R9). -/
def fclamp (x lo hi : F32) : F32 := fmin (fmax x lo) hi

/-- The binary32 nearest to an integer: float(n) of R9, exact for |n| < 2^24. -/
def fofInt (n : Int) : F32 := roundUnits (decide (n < 0)) (n.natAbs * unitsPerOne) 1

/-- The integer ⌊x⌋ of a finite x. -/
def floorInt (x : F32) : Int := units x / (unitsPerOne : Int)

/-- floor(x): the largest integral binary32 value not greater than x; a zero result of a zero keeps its
sign (R9). A non-finite x is returned as it is. -/
def ffloor (x : F32) : F32 :=
  if !ffinite x then x
  else if floorInt x = 0 then withSign (fsign x) 0
  else fofInt (floorInt x)

/-- rne_int(x): the integer nearest to a finite x, ties to even (R9). -/
def rneInt (x : F32) : Int :=
  let q := floorInt x
  let r := units x % (unitsPerOne : Int)
  if (unitsPerOne : Int) < 2 * r ∨ (2 * r = (unitsPerOne : Int) ∧ q % 2 = 1) then q + 1 else q

/-- rne_int(x) as binary32; ±∞ stays ±∞ (45 R302). -/
def frne (x : F32) : F32 := if !ffinite x then x else fofInt (rneInt x)

/-- The natural number a non-negative finite value holds, fraction dropped. -/
def ftoNat (x : F32) : Nat := (floorInt x).toNat

/-- y = 0 then +0.0: a zero of either sign becomes +0.0 (45 R302, R304). -/
def fplusZero (x : F32) : F32 := if fmag x == 0 then Config.zero else x

/-- wrap(x) of R16: x − floor(x), with 1.0 mapped to 0.0. -/
def wrap (x : F32) : F32 :=
  let y := fsub x (ffloor x)
  if fle Config.one y then Config.zero else y

/-- wrap_shortest(d) of R16: the shortest-path representative in [−0.5, 0.5). -/
def wrapShortest (d : F32) : F32 :=
  let e := fsub d (ffloor d)
  let e := if fle Config.one e then Config.zero else e
  if fle Config.half e then fsub e Config.one else e

end Sys2Proof.Machine
end

