-- ==== Sys2Proof/Machine/Operands.lean ====
section
/-!
DEFINITION. Operand forms: header fields as integers, ARG registers as binary32 values, the checks and
clamps of parameter and gesture values (30_encoding.md R113, R116, R117; 45_commands.md R302, R304), and the
note frequencies (44_voice.md R241).
-/

namespace Sys2Proof.Machine

/-! ## Parameter values -/

/-- The kind is int or enum: the value is stored as the binary32 of an integer (10 R40). -/
def paramIntegral (p : Param) : Bool := (paramRow p).kind != .real

/-- PARAM_CHECK(id, x) for x not NaN (45 R302): the value stored and whether it was clamped. -/
def paramCheck (p : Param) (x : F32) : F32 × Bool :=
  let y := if paramIntegral p then frne x else x
  let y := if flt y (paramRow p).lo then (paramRow p).lo else y
  let y := if flt (paramRow p).hi y then (paramRow p).hi else y
  let y := fplusZero y
  (y, !feq y x)

/-- A preset word is valid for its parameter (45 R301): not NaN, in [lo, hi], integral for int and enum. -/
def presetValid (p : Param) (x : F32) : Bool :=
  !fisNaN x && !flt x (paramRow p).lo && !flt (paramRow p).hi x &&
    (!paramIntegral p || feq x (frne x))

/-! ## Gesture values -/

/-- The nine values of a note-on: f32(ARG0..ARG8) (30 R113). -/
def gestureArgs (s : State) : Gesture where
  velocity := argValue s 0
  force := argValue s 1
  speed := argValue s 2
  contactArea := argValue s 3
  roughness := argValue s 4
  scaleMeters := argValue s 5
  massBias := argValue s 6
  airLoss := argValue s 7
  transientSlowing := argValue s 8

/-- Some value of the nine is a NaN. -/
def Gesture.hasNaN (g : Gesture) : Bool :=
  fisNaN g.velocity || fisNaN g.force || fisNaN g.speed || fisNaN g.contactArea || fisNaN g.roughness ||
    fisNaN g.scaleMeters || fisNaN g.massBias || fisNaN g.airLoss || fisNaN g.transientSlowing

/-- Every value of g is numerically the one of h. -/
def Gesture.sameValues (g h : Gesture) : Bool :=
  feq g.velocity h.velocity && feq g.force h.force && feq g.speed h.speed &&
    feq g.contactArea h.contactArea && feq g.roughness h.roughness && feq g.scaleMeters h.scaleMeters &&
    feq g.massBias h.massBias && feq g.airLoss h.airLoss && feq g.transientSlowing h.transientSlowing

/-- The nine values clamped to their domains (44 R243); velocity has no low clamp (45 R304). -/
def Gesture.clamped (g : Gesture) : Gesture where
  velocity := fplusZero (fmin g.velocity Config.one)
  force := fplusZero (fclamp g.force Config.zero Config.one)
  speed := fplusZero (fclamp g.speed Config.zero Config.one)
  contactArea := fplusZero (fclamp g.contactArea Config.zero Config.one)
  roughness := fplusZero (fclamp g.roughness Config.zero Config.one)
  scaleMeters := fplusZero (fclamp g.scaleMeters Config.zero Config.hundred)
  massBias := fplusZero (fclamp g.massBias Config.minusOne Config.one)
  airLoss := fplusZero (fclamp g.airLoss Config.zero Config.one)
  transientSlowing := fplusZero (fclamp g.transientSlowing Config.zero Config.one)

/-- What GESTURE_CHECK answers (45 R304). -/
inductive GestureVerdict where
  /-- some value is a NaN: BAD_VALUE -/
  | badValue
  /-- velocity ≤ 0: the note-on is a note-off (45 R279) -/
  | isOff
  /-- the values to use, and whether one was clamped -/
  | on (g : Gesture) (clamped : Bool)
  deriving DecidableEq, Repr

/-- GESTURE_CHECK(g) (45 R304). -/
def gestureCheck (g : Gesture) : GestureVerdict :=
  if g.hasNaN then .badValue
  else if fle g.velocity Config.zero then .isOff
  else .on g.clamped (!g.clamped.sameValues g)

/-! ## Note frequencies -/

/-- NOTE_FREQ of notes 0..11 (44 R241). -/
def noteFreqBase : List F32 :=
  [0x4102D013#32, 0x410A9760#32, 0x4112D517#32, 0x411B9041#32, 0x4124D054#32, 0x412E9D37#32,
   0x4138FF49#32, 0x4143FF6A#32, 0x414FA700#32, 0x415C0000#32, 0x416914F6#32, 0x4176F110#32]

/-- NOTE_FREQ[n] (44 R241): each octave repeats the significands with the exponent one higher. -/
def noteFreq (note : BitVec 7) : F32 :=
  noteFreqBase.getD (note.toNat % 12) 0 + BitVec.ofNat 32 (note.toNat / 12 * 2 ^ 23)

end Sys2Proof.Machine
end

