-- ==== Sys2Proof/Machine/Bus.lean ====
section
/-!
DEFINITION. The host bus (20_memory.md R80 to R99): the register map (10_state.md R52) and what an aligned
word read or write does. A write to CMD executes a command: Machine/Execute.lean.
-/

namespace Sys2Proof.Machine

/-- The mapped registers (10 R52). -/
inductive Reg where
  | id | version | status | error | result | rdata | activeCount | activeMask | voiceState
  | sampleRate | blockSize | maxVoicesCfg | eqCount | clipCount | wgFund | wgDelay
  | triggerCounter | sampleCountLo | sampleCountHi | caps | caps2
  | arg (i : Fin 9)
  | cmd
  deriving DecidableEq, Repr

/-- The byte offset of a register (10 R52). -/
def regOffset : Reg → Nat
  | .id => 0x000
  | .version => 0x004
  | .status => 0x008
  | .error => 0x00C
  | .result => 0x010
  | .rdata => 0x014
  | .activeCount => 0x018
  | .activeMask => 0x01C
  | .voiceState => 0x020
  | .sampleRate => 0x024
  | .blockSize => 0x028
  | .maxVoicesCfg => 0x02C
  | .eqCount => 0x030
  | .clipCount => 0x034
  | .wgFund => 0x038
  | .wgDelay => 0x03C
  | .triggerCounter => 0x040
  | .sampleCountLo => 0x044
  | .sampleCountHi => 0x048
  | .caps => 0x04C
  | .caps2 => 0x050
  | .arg i => 0x100 + 4 * i.val
  | .cmd => 0x200

/-- Every mapped register. -/
def allRegs : List Reg :=
  [.id, .version, .status, .error, .result, .rdata, .activeCount, .activeMask, .voiceState,
   .sampleRate, .blockSize, .maxVoicesCfg, .eqCount, .clipCount, .wgFund, .wgDelay,
   .triggerCounter, .sampleCountLo, .sampleCountHi, .caps, .caps2,
   .arg 0, .arg 1, .arg 2, .arg 3, .arg 4, .arg 5, .arg 6, .arg 7, .arg 8, .cmd]

/-- The register at a byte offset; none where the map lists none (20 R86). -/
def regAt (offset : Nat) : Option Reg := allRegs.find? fun r => regOffset r == offset

/-- What a read of a register returns; it has no side effect (20 R89; 10 R31 to R39, R50, R51). -/
def regRead (s : State) : Reg → Word
  | .id => Config.idWord
  | .version => Config.versionWord
  | .status => statusWord s
  | .error => errorWord s
  | .result => resultWord s
  | .rdata => s.rdata
  | .activeCount => BitVec.ofNat 32 (activeCount s)
  | .activeMask => activeMask s
  | .voiceState => voiceStateWord s
  | .sampleRate => s.sampleRate
  | .blockSize => s.blockSize
  | .maxVoicesCfg => s.maxVoicesCfg
  | .eqCount => BitVec.ofNat 32 s.queue.length
  | .clipCount => s.clipCount
  | .wgFund => s.wgFund
  | .wgDelay => s.delay.zeroExtend 32
  | .triggerCounter => s.triggerCounter
  | .sampleCountLo => s.sampleCount.extractLsb' 0 32
  | .sampleCountHi => s.sampleCount.extractLsb' 32 32
  | .caps => Config.capsWord
  | .caps2 => Config.caps2Word
  | .arg i => s.args[i]
  | .cmd => s.cmd

/-- What storing a word into a register does, the start of a command apart: ARG registers and CMD store it,
ERROR clears bits, a read-only register ignores it (10 R31, R32, R36; 20 R88, R89). -/
def regWrite (s : State) (w : Word) : Reg → State
  | .error => clearErrors s w
  | .arg i => { s with args := s.args.set i w }
  | .cmd => { s with cmd := w }
  | .id | .version | .status | .result | .rdata | .activeCount | .activeMask | .voiceState => s
  | .sampleRate | .blockSize | .maxVoicesCfg | .eqCount | .clipCount | .wgFund | .wgDelay => s
  | .triggerCounter | .sampleCountLo | .sampleCountHi | .caps | .caps2 => s

/-- The regions of the host address map (20 R81). -/
inductive Region where
  | registers | out | preset | unmapped
  deriving DecidableEq, Repr

/-- The region of a byte address (20 R81). -/
def regionOf (a : Nat) : Region :=
  if a < outBase then .registers
  else if a < outEnd then .out
  else if presetBase ≤ a ∧ a < presetEnd then .preset
  else .unmapped

/-- MemRead(a, 4) at an aligned address: unmapped addresses and offsets read 0 (20 R81, R86). -/
def busRead (s : State) (a : Nat) : Word :=
  match regionOf a with
  | .registers =>
    match regAt a with
    | some r => regRead s r
    | none => 0
  | .out => readWord s.mem a
  | .preset => readWord s.mem a
  | .unmapped => 0

/-- MemWrite(a, 4, w) at an aligned address, the start of a command apart: writes to OUT, to read-only
registers and to unmapped addresses are ignored (20 R81, R86, R88, R89). -/
def busWrite (s : State) (a : Nat) (w : Word) : State :=
  match regionOf a with
  | .registers =>
    match regAt a with
    | some r => regWrite s w r
    | none => s
  | .out => s
  | .preset => { s with mem := writeWord s.mem a w }
  | .unmapped => s

end Sys2Proof.Machine
end

