-- ==== Sys2Proof/Machine/Exciter.lean ====
section
/-!
DEFINITION. The lip-reed nonlinear oscillator (41_exciter.md R170 to R178), the reference binding of EXC_LAW
(log entry 11).
-/

namespace Sys2Proof.Machine

/-- EXC_DERIVE(i) (41 R171): the coefficients from the table, the gesture g, the fundamental f and fs;
x, v, z kept. -/
def excDerive (s : State) (g : Gesture) (f : F32) (x : Exciter) : Exciter :=
  let peff := fclamp (fmul (param s .mouthPressure) (fadd Config.half (fmul Config.half g.force)))
    Config.zero Config.one
  let meff := fclamp (fadd (param s .lipMass) g.massBias) Config.zero Config.one
  let geff := fclamp (fadd (param s .growlAmount) g.roughness) Config.zero Config.one
  let aeff := fadd Config.half (fmul Config.half g.contactArea)
  let flip := fmul f (fadd Config.threeQuarters (fmul Config.half (param s .lipTension)))
  let wl := fmin (fdiv (fmul Config.twoPi flip) s.sampleRate) Config.half
  { x with
    peff := peff
    meff := meff
    geff := geff
    aeff := aeff
    wl := wl
    stiff := fdiv (fmul (fmul wl wl) (fadd Config.half (param s .lipStiffness))) (fadd Config.half meff)
    cd := fmul Config.k0_02 wl
    mu := fmul Config.k0_2 wl }

/-- The exciter's start state after EXC_DERIVE at a trigger (41 R175). -/
def excStart (x : Exciter) : Exciter :=
  { x with x := Config.zero, v := fmul Config.k0_1 x.wl, z := Config.half }

/-- The logistic map of the chaos generator (41 R174). -/
def chaosNext (z : F32) : F32 := fmul (fmul Config.k3_99 z) (fsub Config.one z)

/-- EXC_STEP(i, u) (41 R173): the output and the new exciter. -/
def excStep (s : State) (u : F32) (x : Exciter) : F32 × Exciter :=
  let dp := fmul u x.peff
  let mu := fmul x.mu dp
  let acc := fsub
    (fmul (fsub (fmul mu (fsub Config.one (fmul x.x x.x))) x.cd) x.v)
    (fmul x.stiff x.x)
  let v' := fclamp (fadd x.v acc) Config.minusTwo Config.two
  let x' := fclamp (fadd x.x v') Config.minusTwo Config.two
  let y := fdiv (fmul x.aeff x') (fadd Config.one (fmul (param s .nonlinearity) (fabs x')))
  let z' := chaosNext x.z
  let y := if flt (param s .chaosThreshold) dp then
      fadd y (fmul (fmul x.geff (fsub dp (param s .chaosThreshold))) (fsub z' Config.half))
    else y
  (fclamp y Config.minusTwo Config.two, { x with v := v', x := x', z := z' })

end Sys2Proof.Machine
end

