-- ==== Sys2Proof/Machine/Elementary.lean ====
section
/-!
DEFINITION. The correctly rounded elementary functions cr_exp, cr_sin, cr_cos and cr_pow10
(00_scope.md R10). Each is computed from an exact rational enclosure lower ≤ f(x) ≤ upper whose two ends
are rounded to binary32: where they round alike, that is the correctly rounded value. Where they do not
(no argument is known where they do not), one of the two is the value and which one is free
(log entry 6). Values at non-finite arguments are in log entry 24.
-/

namespace Sys2Proof.Machine

/-- n/d, for an integer n and a positive d, rounded to binary32. -/
def roundRatio (n : Int) (d : Nat) : F32 := roundUnits (decide (n < 0)) (n.natAbs * unitsPerOne) d

/-- The value both ends of an enclosure round to; where they differ, one of them, left free. -/
def settle (fn : Config.CrFn) (x lower upper : F32) : F32 :=
  if lower = upper then lower else if Config.crUpper fn x then upper else lower

/-- |x| of a finite x as a fraction p/q in lowest terms. -/
def magFraction (x : F32) : Nat × Nat :=
  let g := Nat.gcd (magUnits x) unitsPerOne
  (magUnits x / g, unitsPerOne / g)

/-! ## exp -/

/-- 1 + (y/(j+1))·(1 + (y/(j+2))·(… )) with `terms` factors, y = p/q, as numerator and denominator. -/
def expTail (p q : Nat) : (terms : Nat) → (j : Nat) → Nat × Nat
  | 0, _ => (1, 1)
  | terms + 1, j =>
    let t := expTail p q terms (j + 1)
    let d := t.2 * q * (j + 1)
    (d + p * t.1, d)

/-- The Taylor terms taken for e^y, y = p/q: enough for y ≤ 4 and for y ≤ 256. -/
def expTerms (p q : Nat) : Nat := if p ≤ 4 * q then 80 else 512

/-- Numerator and denominator of a lower bound of e^(p/q): the Taylor sum up to y^N/N!. -/
def expLower (p q : Nat) : Nat × Nat := expTail p q (expTerms p q) 0

/-- Numerator and denominator of an upper bound of e^(p/q), p/q ≤ 256: the rest of the series after
y^N/N! is at most y^N/N!. The denominator of the sum is q^N·N!. -/
def expUpper (p q : Nat) : Nat × Nat :=
  let n := expTerms p q
  let t := expTail p q n 0
  (t.1 + p ^ n, t.2)

/-- e^(±a) for a between the fractions lo and hi: bounds of the result as fractions. -/
def expBounds (neg : Bool) (lo hi : Nat × Nat) : (Nat × Nat) × (Nat × Nat) :=
  let l := expLower lo.1 lo.2
  let u := expUpper hi.1 hi.2
  if neg then ((u.2, u.1), (l.2, l.1)) else (l, u)

/-- Round a positive fraction. -/
def roundFraction (f : Nat × Nat) : F32 := roundUnits false (f.1 * unitsPerOne) f.2

/-- cr_exp(x) (R10). At |x| ≥ 128 the exact value lies beyond the format's range on either side. -/
def crExp (x : F32) : F32 :=
  if fisNaN x then x
  else if fisInf x || decide (128 * unitsPerOne ≤ magUnits x) then
    (if fsign x then Config.zero else withSign false 0x7F800000)
  else
    let a := magFraction x
    let b := expBounds (fsign x) a a
    settle .exp x (roundFraction b.1) (roundFraction b.2)

/-! ## 10^x -/

/-- Σ ⌊2^320 / ((2i+1)·m^(2i+1))⌋ for i below `terms`: 2^320·atanh(1/m) from below, within one per term
and one for the rest. -/
def atanhInv (m : Nat) : (terms : Nat) → Nat
  | 0 => 0
  | i + 1 => atanhInv m i + 2 ^ 320 / ((2 * i + 1) * m ^ (2 * i + 1))

/-- 2^320·ln 10 from below: ln 10 = 6·atanh(1/3) + 2·atanh(1/9). -/
def ln10Lower : Nat := 6 * atanhInv 3 104 + 2 * atanhInv 9 104

/-- 2^320·ln 10 from above. -/
def ln10Upper : Nat := ln10Lower + 8 * 105

/-- cr_pow10(x) (R10): e^(x·ln 10). At |x| ≥ 64 the exact value lies beyond the format's range. -/
def crPow10 (x : F32) : F32 :=
  if fisNaN x then x
  else if fisInf x || decide (64 * unitsPerOne ≤ magUnits x) then
    (if fsign x then Config.zero else withSign false 0x7F800000)
  else
    let a := magFraction x
    let b := expBounds (fsign x) (a.1 * ln10Lower, a.2 * 2 ^ 320) (a.1 * ln10Upper, a.2 * 2 ^ 320)
    settle .pow10 x (roundFraction b.1) (roundFraction b.2)

/-! ## sin and cos -/

/-- Taylor terms of sin and cos, enough for arguments up to 4. -/
abbrev trigTerms : Nat := 72

/-- 1 − y²/((s+1)(s+2))·(1 − y²/((s+3)(s+4))·(…)), y = p/q: the cosine series from s = 0 and the sine
series divided by y from s = 1. Numerator and denominator. -/
def trigTail (p q : Nat) : (terms : Nat) → (s : Nat) → Int × Nat
  | 0, _ => (1, 1)
  | terms + 1, s =>
    let t := trigTail p q terms (s + 2)
    let d := t.2 * (q * q) * ((s + 1) * (s + 2))
    ((d : Int) - (p * p : Nat) * t.1, d)

/-- A real number within rad/den of mid/den. -/
structure Ball where
  mid : Int
  rad : Nat
  den : Nat
  deriving DecidableEq, Repr

/-- cos(p/q): the sum up to y^2N, within y^2N/(2N)!. -/
def cosBall (p q : Nat) : Ball :=
  let t := trigTail p q trigTerms 0
  ⟨t.1, p ^ (2 * trigTerms), t.2⟩

/-- sin(p/q): the sum up to y^(2N+1), within y^(2N+1)/(2N+1)!. -/
def sinBall (p q : Nat) : Ball :=
  let t := trigTail p q trigTerms 1
  ⟨(p : Int) * t.1, p ^ (2 * trigTerms + 1), q * t.2⟩

/-- A common fixed point for the angle doublings: 2^512. -/
abbrev trigOne : Nat := 2 ^ 512

/-- cos and sin of one angle in units of 1/trigOne, each within `err`. -/
structure CosSin where
  cos : Int
  sin : Int
  err : Nat
  deriving DecidableEq, Repr

/-- cos(p/q) and sin(p/q) in fixed point. -/
def cosSinBase (p q : Nat) : CosSin :=
  let c := cosBall p q
  let s := sinBall p q
  ⟨c.mid * trigOne / c.den, s.mid * trigOne / s.den,
    max (c.rad * trigOne / c.den) (s.rad * trigOne / s.den) + 2⟩

/-- cos 2y = 2cos²y − 1 and sin 2y = 2 sin y cos y in fixed point. -/
def cosSinDouble (t : CosSin) : CosSin :=
  ⟨2 * t.cos * t.cos / trigOne - trigOne, 2 * t.sin * t.cos / trigOne,
    4 * t.err + 2 * t.err * t.err / trigOne + 2⟩

/-- `h` doublings. -/
def cosSinDoubles : (h : Nat) → CosSin → CosSin
  | 0, t => t
  | h + 1, t => cosSinDoubles h (cosSinDouble t)

/-- How many halvings bring p/q to at most 4. -/
def halvings (p q : Nat) : Nat := if p ≤ 4 * q then 0 else (p / (4 * q)).log2 + 1

/-- cos(p/q) for any fraction: the series up to 4, angle doubling beyond. -/
def cosAny (p q : Nat) : Ball :=
  let h := halvings p q
  if h = 0 then cosBall p q
  else
    let t := cosSinDoubles h (cosSinBase p (q * 2 ^ h))
    ⟨t.cos, t.err, trigOne⟩

/-- sin(p/q) for any fraction. -/
def sinAny (p q : Nat) : Ball :=
  let h := halvings p q
  if h = 0 then sinBall p q
  else
    let t := cosSinDoubles h (cosSinBase p (q * 2 ^ h))
    ⟨t.sin, t.err, trigOne⟩

/-- The rounded ends of a ball. -/
def ballEnds (b : Ball) : F32 × F32 :=
  (roundRatio (b.mid - b.rad) b.den, roundRatio (b.mid + b.rad) b.den)

/-- cr_cos(x) (R10); cos is even. -/
def crCos (x : F32) : F32 :=
  if !ffinite x then invalidResult x x
  else
    let a := magFraction x
    let e := ballEnds (cosAny a.1 a.2)
    settle .cos x e.1 e.2

/-- cr_sin(x) (R10); sin is odd, and a zero keeps its sign. -/
def crSin (x : F32) : F32 :=
  if !ffinite x then invalidResult x x
  else if fmag x = 0 then x
  else
    let a := magFraction x
    let e := ballEnds (sinAny a.1 a.2)
    if fsign x then settle .sin x (fneg e.2) (fneg e.1) else settle .sin x e.1 e.2

end Sys2Proof.Machine
end

