-- ==== Sys2Proof/Machine/Formant.lean ====
section
/-!
DEFINITION. The bell radiation filter (43_bell_formant.md R210 to R214) and the formant bank (43 R220 to
R229): the reference bindings of BELL_LAW, FMT_LAW and FORMANT_PROFILE (log entry 11).
-/

namespace Sys2Proof.Machine

/-! ## Bell -/

/-- fc_eff (43 R211). -/
def bellCutoffEff (s : State) (scaleMeters : F32) : F32 :=
  fclamp (fdiv (param s .bellCutoff) (fadd Config.one scaleMeters)) Config.twenty
    (fmul Config.k0_45 s.sampleRate)

/-- ba and bb (43 R211). -/
def bellCoeffs (s : State) (scaleMeters : F32) (b : Bell) : Bell :=
  let ba := crExp (fneg (fdiv (fmul Config.twoPi (bellCutoffEff s scaleMeters)) s.sampleRate))
  { b with ba := ba, bb := fsub Config.one ba }

/-- ba and bb of a voice (43 R211). -/
def voiceBellCoeffs (s : State) (v : Voice) : Voice := { v with bell := bellCoeffs s v.g.scaleMeters v.bell }

/-- The bell of a triggered slot (43 R214). -/
def bellTrigger (s : State) (scaleMeters : F32) : Bell :=
  bellCoeffs s scaleMeters ⟨Config.zero, Config.zero, Config.zero⟩

/-- BELL_STEP(i, x) (43 R212): the output is the new `by`. -/
def bellStep (x : F32) (b : Bell) : Bell := { b with out := fadd (fmul b.bb x) (fmul b.ba b.out) }

/-! ## Section coefficients -/

/-- SEC_COEFF(fc, g, Q) at sample rate fs (43 R221). -/
def secCoeff (fs fc g q : F32) : Coeffs :=
  let a := crPow10 (fdiv g Config.forty)
  let w0 := fdiv (fmul Config.twoPi fc) fs
  let cs := crCos w0
  let sn := crSin w0
  let al := fdiv sn (fmul Config.two q)
  let b0 := fadd Config.one (fmul al a)
  let b1 := fmul Config.minusTwo cs
  let b2 := fsub Config.one (fmul al a)
  let a0 := fadd Config.one (fdiv al a)
  let a1 := fmul Config.minusTwo cs
  let a2 := fsub Config.one (fdiv al a)
  ⟨fdiv b0 a0, fdiv b1 a0, fdiv b2 a0, fdiv a1 a0, fdiv a2 a0⟩

/-- A base triple (fc, g, Q) of FORMANT_PROFILE. -/
structure Triple where
  fc : F32
  g : F32
  q : F32
  deriving DecidableEq, Repr

/-- A triple of integers as binary32 (exact). -/
def intTriple (fc g q : Int) : Triple := ⟨fofInt fc, fofInt g, fofInt q⟩

/-- FORMANT_PROFILE: the base triple of a section of a hornType (43 R222). 5 is custom; log entry 10 for a
hornType no run reaches. -/
def hornProfile (s : State) (horn : Nat) (sec : Fin 4) : Triple :=
  match horn, sec with
  | 0, 0 => intTriple 1200 6 3
  | 0, 1 => intTriple 2500 4 4
  | 0, 2 => intTriple 3800 2 5
  | 0, 3 => intTriple 5500 (-3) 3
  | 1, 0 => intTriple 600 6 3
  | 1, 1 => intTriple 1300 4 4
  | 1, 2 => intTriple 2500 2 5
  | 1, 3 => intTriple 4000 (-3) 3
  | 2, 0 => intTriple 250 6 2
  | 2, 1 => intTriple 700 4 3
  | 2, 2 => intTriple 1500 2 4
  | 2, 3 => intTriple 3000 (-6) 2
  | 3, 0 => intTriple 400 6 3
  | 3, 1 => intTriple 1000 3 4
  | 3, 2 => intTriple 2200 1 4
  | 3, 3 => intTriple 3500 (-6) 3
  | 4, 0 => intTriple 500 5 4
  | 4, 1 => intTriple 1500 5 5
  | 4, 2 => intTriple 2800 3 6
  | 4, 3 => intTriple 4500 (-2) 3
  | _, 0 => ⟨param s .customFreq0, param s .customGain0, Config.four⟩
  | _, 1 => ⟨param s .customFreq1, param s .customGain1, Config.four⟩
  | _, 2 => ⟨param s .customFreq2, param s .customGain2, Config.four⟩
  | _, 3 => ⟨param s .customFreq3, param s .customGain3, Config.four⟩

/-- Section `sec` of BANK_COEFF(t): the triple under the shaping controls (43 R223). -/
def bankSecCoeff (s : State) (horn : Nat) (sec : Fin 4) : Coeffs :=
  let t := hornProfile s horn sec
  let fc := fclamp (fmul t.fc (fadd Config.threeQuarters (fmul Config.half (param s .brightness))))
    Config.twenty (fmul Config.k0_45 s.sampleRate)
  let g := if sec.val < 2 then
      fadd t.g (fmul Config.twelve (fsub (param s .warmth) Config.half))
    else t.g
  let q := fmul t.q (fadd Config.one (fmul Config.three (param s .metalness)))
  secCoeff s.sampleRate fc g q

/-- Load BANK_COEFF(t) into a bank, keeping its state words (43 R223, R227). -/
def bankLoad (s : State) (horn : Nat) (b : Bank) : Bank where
  s0 := { b.s0 with c := bankSecCoeff s horn 0 }
  s1 := { b.s1 with c := bankSecCoeff s horn 1 }
  s2 := { b.s2 with c := bankSecCoeff s horn 2 }
  s3 := { b.s3 with c := bankSecCoeff s horn 3 }

/-- P[hornType] as the index of a profile (10 R40). -/
def hornIndex (s : State) : Nat := ftoNat (param s .hornType)

/-! ## Filtering -/

/-- SEC_STEP(sec, x) (43 R224). -/
def secStep (x : F32) (sec : Section) : F32 × Section :=
  let y := fsub (fsub (fadd (fadd (fmul sec.c.b0 x) (fmul sec.c.b1 sec.h.x1)) (fmul sec.c.b2 sec.h.x2))
    (fmul sec.c.a1 sec.h.y1)) (fmul sec.c.a2 sec.h.y2)
  let y := fclamp y Config.minusF1024 Config.f1024
  (y, { sec with h := ⟨x, sec.h.x1, y, sec.h.y1⟩ })

/-- The four sections of a bank in index order, each feeding the next (43 R220, R225). -/
def bankStep (x : F32) (b : Bank) : F32 × Bank :=
  let r0 := secStep x b.s0
  let r1 := secStep r0.1 b.s1
  let r2 := secStep r1.1 b.s2
  let r3 := secStep r2.1 b.s3
  (r3.1, ⟨r0.2, r1.2, r2.2, r3.2⟩)

/-- B[b]. -/
def Formant.bank (m : Formant) (b : BitVec 1) : Bank := if b = 0 then m.bank0 else m.bank1

/-- B[b] ← bank. -/
def Formant.setBank (m : Formant) (b : BitVec 1) (bank : Bank) : Formant :=
  if b = 0 then { m with bank0 := bank } else { m with bank1 := bank }

/-- FMT_STEP(i, x) (43 R225). The bank that is not current is 1 − cur. -/
def fmtStep (x : F32) (m : Formant) : F32 × Formant :=
  let rn := bankStep x (m.bank m.cur)
  let m1 := m.setBank m.cur rn.2
  if m.xf = 0 then (rn.1, m1)
  else
    let ro := bankStep x (m1.bank (1 - m.cur))
    let m2 := m1.setBank (1 - m.cur) ro.2
    let t := fdiv (fofInt ((Config.xfLen : Int) - m.xf.toNat)) (fofInt Config.xfLen)
    (fadd ro.1 (fmul t (fsub rn.1 ro.1)), { m2 with xf := m.xf - 1 })

/-- HORN_SWITCH(i, t) (43 R226): the other bank takes the current bank's state words and the new
coefficients and becomes current; the crossfade count restarts. -/
def hornSwitch (s : State) (horn : Nat) (v : Voice) : Voice :=
  let m := v.fmt
  { v with fmt := { (m.setBank (1 - m.cur) (bankLoad s horn (m.bank m.cur))) with
      cur := 1 - m.cur
      xf := BitVec.ofNat 9 Config.xfLen } }

/-- Reload the current bank's coefficients, its state words kept (43 R227). -/
def voiceBankReload (s : State) (v : Voice) : Voice :=
  { v with fmt := v.fmt.setBank v.fmt.cur (bankLoad s (hornIndex s) (v.fmt.bank v.fmt.cur)) }

/-- A section with zero state words. -/
def Section.cleared (sec : Section) : Section := { sec with h := ⟨0, 0, 0, 0⟩ }

/-- A bank with zero state words. -/
def Bank.cleared (b : Bank) : Bank := ⟨b.s0.cleared, b.s1.cleared, b.s2.cleared, b.s3.cleared⟩

/-- The formant state of a triggered slot (43 R227): cur and xf 0, every state word of both banks zero,
B[0] loaded; the coefficients of B[1] stay. -/
def fmtTrigger (s : State) (m : Formant) : Formant where
  bank0 := bankLoad s (hornIndex s) m.bank0.cleared
  bank1 := m.bank1.cleared
  cur := 0
  xf := 0

end Sys2Proof.Machine
end

