-- ==== Sys2Proof/Machine/Pll.lean ====
section
/-!
DEFINITION. The PLL subharmonic generator (40_pll.md R140 to R157): the reference phase of a slot and its
two ratio-locked phase channels.
-/

namespace Sys2Proof.Machine

/-- r[j] = float(num_j) ÷ float(den_j) (40 R141); the parameters hold the integers as binary32. -/
def ratioOf (num den : F32) : F32 := fdiv num den

/-- r[0] from the table (40 R141). -/
def ratio0Of (s : State) : F32 := ratioOf (param s .sub1Num) (param s .sub1Den)

/-- r[1] from the table (40 R141). -/
def ratio1Of (s : State) : F32 := ratioOf (param s .sub2Num) (param s .sub2Den)

/-- incSub = (f × r) ÷ fs (40 R142). -/
def incSubOf (f r fs : F32) : F32 := fdiv (fmul f r) fs

/-- SUBWAVE(φ), the parabolic sine (40 R151). -/
def subwave (phase : F32) : F32 :=
  let p := fsub (fmul Config.two phase) Config.one
  fmul (fmul Config.four p) (fsub (fabs p) Config.one)

/-- float(k): the counter of a channel as binary32 (40 R143). -/
def cyclesValue (k : BitVec 4) : F32 := fofInt k.toNat

/-- expected_j (40 R143): the reference phase, unwrapped over den_j cycles, scaled by the ratio. -/
def expectedPhase (num den pref : F32) (k : BitVec 4) : F32 :=
  wrap (fdiv (fmul (fadd (cyclesValue k) pref) num) den)

/-- error_j (40 R144). -/
def phaseError (num den pref : F32) (c : PllChannel) : F32 :=
  wrapShortest (fsub c.pm (expectedPhase num den pref c.k))

/-- Steps 1 to 5 of one channel (40 R143 to R147). -/
def channelStep (num den pref : F32) (c : PllChannel) : PllChannel :=
  let err := phaseError num den pref c
  let integ := fclamp (fadd c.integ err) Config.minusILim Config.iLim
  let corr := fadd (fmul Config.kp err) (fmul Config.ki integ)
  { c with integ := integ, pm := wrap (fsub (fadd c.pm c.incSub) corr) }

/-- k_j ← (k_j + ncyc) mod den_j (40 R148). -/
def channelCount (den : F32) (ncyc : Nat) (c : PllChannel) : PllChannel :=
  { c with k := BitVec.ofNat 4 ((c.k.toNat + ncyc) % ftoNat den) }

/-- PLL_STEP(i) (40 R149): the two channel outputs, taken before the advance, and the new PLL. -/
def pllStep (s : State) (p : Pll) : F32 × F32 × Pll :=
  let s0 := subwave p.ch0.pm
  let s1 := subwave p.ch1.pm
  let c0 := channelStep (param s .sub1Num) (param s .sub1Den) p.pref p.ch0
  let c1 := channelStep (param s .sub2Num) (param s .sub2Den) p.pref p.ch1
  let t := fadd p.pref p.incRef
  let ncyc := ftoNat t
  (s0, s1,
    { p with
      pref := wrap t
      ch0 := channelCount (param s .sub1Den) ncyc c0
      ch1 := channelCount (param s .sub2Den) ncyc c1 })

/-- A channel locked at reference phase 0 (40 R154). -/
def channelTrigger (incSub : F32) : PllChannel := ⟨Config.zero, Config.zero, 0, incSub⟩

/-- The PLL of a triggered slot: increments (40 R142), then locked (40 R154). -/
def pllTrigger (s : State) (f : F32) : Pll where
  pref := Config.zero
  incRef := fdiv f s.sampleRate
  ch0 := channelTrigger (incSubOf f s.ratio0 s.sampleRate)
  ch1 := channelTrigger (incSubOf f s.ratio1 s.sampleRate)

/-- The re-lock of one channel at a ratio change (40 R155). -/
def channelRelock (num den pref incSub : F32) : PllChannel where
  pm := wrap (fdiv (fmul pref num) den)
  integ := Config.zero
  k := 0
  incSub := incSub

/-- Re-lock channel 0 of a voice to the table's ratio (40 R155). -/
def relock0 (s : State) (v : Voice) : Voice :=
  let inc := incSubOf v.f s.ratio0 s.sampleRate
  let c := channelRelock (param s .sub1Num) (param s .sub1Den) v.pll.pref inc
  { v with pll := { v.pll with ch0 := c } }

/-- Re-lock channel 1 of a voice to the table's ratio (40 R155). -/
def relock1 (s : State) (v : Voice) : Voice :=
  let inc := incSubOf v.f s.ratio1 s.sampleRate
  let c := channelRelock (param s .sub2Num) (param s .sub2Den) v.pll.pref inc
  { v with pll := { v.pll with ch1 := c } }

end Sys2Proof.Machine
end

