-- ==== Sys2Proof/Machine/Waveguide.lean ====
section
/-!
DEFINITION. The bore waveguide (42_waveguide.md R190 to R199), the reference binding of WG_LAW (log
entry 11).
-/

namespace Sys2Proof.Machine

/-- M (42 R191). -/
def delayOf (s : State) : BitVec 15 :=
  let n := rneInt (fdiv (fmul (param s .lengthMeters) s.sampleRate) Config.cSound)
  BitVec.ofNat 15 (min (max n 1) (Config.cap - 1)).toNat

/-- Rs by bore shape (42 R192). The parameter is 0, 1, 2 or 3; log entry 10 for a table no run reaches. -/
def shapeReflection (shape : Nat) (r fl : F32) : F32 :=
  let open' := fsub Config.one fl
  match shape with
  | 0 => r
  | 1 => fmul r (fsub Config.one (fmul Config.half fl))
  | 2 => fmul r (fmul open' open')
  | _ => fmul Config.half (fadd r (fmul r (fmul open' open')))

/-- R_EFF (42 R192). -/
def rEffOf (s : State) : F32 :=
  fmin (shapeReflection (ftoNat (param s .boreShape)) (param s .reflectionCoeff) (param s .flareFactor))
    Config.k0_999

/-- WG_FUND (42 R193). -/
def wgFundOf (s : State) : F32 := fdiv Config.cSound (fmul Config.two (param s .lengthMeters))

/-- gl (42 R193). -/
def lossGain (s : State) (airLoss : F32) : F32 :=
  fdiv Config.one
    (fadd Config.one
      (fmul (fadd (param s .lossPerMeter) airLoss) (fmul Config.two (param s .lengthMeters))))

/-- gl and RG of a waveguide (42 R193). -/
def wgCoeffs (s : State) (airLoss : F32) (g : Waveguide) : Waveguide :=
  { g with gl := lossGain s airLoss, rg := fmul s.rEff (lossGain s airLoss) }

/-- gl and RG of a voice (42 R193). -/
def voiceWgCoeffs (s : State) (v : Voice) : Voice := { v with wg := wgCoeffs s v.g.airLoss v.wg }

/-- The waveguide of a triggered slot: rails +0.0, w = 0 (42 R197), then R193. -/
def wgTrigger (s : State) (airLoss : F32) : Waveguide :=
  wgCoeffs s airLoss ⟨[], [], 0, Config.zero, Config.zero⟩

/-- The read tap (w − M) mod CAP (42 R194); CAP = 2^15. -/
def wgTap (s : State) (g : Waveguide) : Nat := (g.w - s.delay).toNat

/-- WG_STEP(i, x) (42 R194): the transmitted part and the new waveguide. -/
def wgStep (s : State) (x : F32) (g : Waveguide) : F32 × Waveguide :=
  let fo := storeRead g.fwd (wgTap s g)
  let bo := storeRead g.bwd (wgTap s g)
  (fmul (fsub Config.one s.rEff) fo,
    { g with
      fwd := storeWrite g.fwd g.w.toNat (fadd x bo)
      bwd := storeWrite g.bwd g.w.toNat (fneg (fmul g.rg fo))
      w := g.w + 1 })

end Sys2Proof.Machine
end

