-- ==== Sys2Proof/Machine/Voice.lean ====
section
/-!
DEFINITION. The voice state machine (44_voice.md R240 to R253): TRIGGER, RELEASE, VOICE_STEP, ENV_STEP.
-/

namespace Sys2Proof.Machine

/-- R_FAST (44 R242). -/
def rFastOf (s : State) : F32 := crExp (fdiv Config.minusOne (fmul Config.k0_002 s.sampleRate))

/-- 1.0 + (9.0 × transientSlowing) (44 R242). -/
def slowing (g : Gesture) : F32 := fadd Config.one (fmul Config.nine g.transientSlowing)

/-- aAtt (44 R242). -/
def attackCoeff (s : State) (g : Gesture) : F32 :=
  let tAtt := fmul (fmul Config.k0_005 (slowing g)) (fsub Config.oneAndHalf g.speed)
  fsub Config.one (crExp (fdiv Config.minusOne (fmul tAtt s.sampleRate)))

/-- rRel (44 R242). -/
def releaseCoeff (s : State) (g : Gesture) : F32 :=
  let tRel := fmul Config.k0_15 (slowing g)
  crExp (fdiv Config.minusOne (fmul tRel s.sampleRate))

/-- The slot TRIGGER(i, note, g) leaves, the counter's value being `stamp` (44 R244). -/
def triggerVoice (s : State) (note : BitVec 7) (g : Gesture) (stamp : BitVec 32) (v : Voice) : Voice where
  state := .sounding
  forceOff := false
  note := note
  g := g
  stamp := stamp
  f := noteFreq note
  e := Config.zero
  aAtt := attackCoeff s g
  rRel := releaseCoeff s g
  exc := excStart (excDerive s g (noteFreq note) v.exc)
  wg := wgTrigger s g.airLoss
  bell := bellTrigger s g.scaleMeters
  fmt := fmtTrigger s v.fmt
  pll := pllTrigger s (noteFreq note)

/-- TRIGGER(i, note, g) (44 R244). -/
def trigger (s : State) (i : Fin 16) (note : BitVec 7) (g : Gesture) : State :=
  { setVoice s i (triggerVoice s note g s.triggerCounter (voice s i)) with
    triggerCounter := s.triggerCounter + 1 }

/-- RELEASE(i, F) (44 R246). -/
def release (forceOff : Bool) (v : Voice) : Voice :=
  match v.state with
  | .sounding => { v with state := .releasing, forceOff := forceOff }
  | .releasing => { v with forceOff := v.forceOff || forceOff }
  | .idle => v

/-- The drive u of a slot (41 R172). -/
def drive (v : Voice) : F32 := if v.state = .sounding then Config.one else v.e

/-- ENV_STEP(i) (44 R251). -/
def envStep (s : State) (v : Voice) : Voice :=
  if v.state = .sounding then { v with e := fadd v.e (fmul v.aAtt (fsub v.g.velocity v.e)) }
  else
    let e := fmul v.e (if v.forceOff then s.rFast else v.rRel)
    { v with e := e, state := if flt e Config.silence then .idle else v.state }

/-- The stages of a voice before the envelope: the mix and the stepped voice (44 R250). -/
def voiceChain (s : State) (v : Voice) : F32 × Voice :=
  let xe := excStep s (drive v) v.exc
  let xw := wgStep s xe.1 v.wg
  let bell := bellStep xw.1 v.bell
  let fm := fmtStep bell.out v.fmt
  let pl := pllStep s v.pll
  (fadd (fadd fm.1 (fmul (param s .sub1Mix) pl.1)) (fmul (param s .sub2Mix) pl.2.1),
    { v with exc := xe.2, wg := xw.2, bell := bell, fmt := fm.2, pll := pl.2.2 })

/-- VOICE_STEP(i) (44 R250): the sample, and the voice after it. The output uses e before ENV_STEP. -/
def voiceStep (s : State) (v : Voice) : F32 × Voice :=
  let r := voiceChain s v
  (fclamp (fmul v.e r.1) Config.minusTwo Config.voiceLim, envStep s r.2)

end Sys2Proof.Machine
end

