-- ==== Sys2Proof/Machine/Pool.lean ====
section
/-!
DEFINITION. The voice-pool allocator and the event queue (45_commands.md R271 to R282).
-/

namespace Sys2Proof.Machine

/-! ## Voice pool -/

/-- The age of slot i: triggers since its own (45 R273). -/
def age (s : State) (i : Fin 16) : Nat := (s.triggerCounter - (voice s i).stamp).toNat

/-- The slots in use in a given state. -/
def slotsIn (s : State) (st : VoiceState) : List (Fin 16) :=
  allSlots.filter fun i => inUse s i && decide ((voice s i).state = st)

/-- The oldest slot of a list in index order: the largest age, the lower index on a tie (45 R273). -/
def oldest (s : State) : List (Fin 16) → Option (Fin 16)
  | [] => none
  | i :: rest =>
    match oldest s rest with
    | none => some i
    | some j => if age s i < age s j then some j else some i

/-- The slot STEAL() takes: the oldest Releasing slot, else the oldest Sounding one (45 R277). -/
def stealSlot (s : State) : Option (Fin 16) :=
  match oldest s (slotsIn s .releasing) with
  | some i => some i
  | none => oldest s (slotsIn s .sounding)

/-- STEAL() forces the slot Idle (45 R277). -/
def forceIdle (s : State) (i : Fin 16) : State := setVoice s i { voice s i with state := .idle }

/-- ALLOC() (45 R272): the lowest-index Idle slot in use, else the stolen one. There is no slot only where
MAX_VOICES_CFG is 0, which no prepared core has (log entry 10). -/
def alloc (s : State) : Option (Fin 16 × State) :=
  match slotsIn s .idle with
  | i :: _ => some (i, s)
  | [] =>
    match stealSlot s with
    | some i => some (i, forceIdle s i)
    | none => none

/-- NOTE_ON_EXEC(note, g) (45 R271). -/
def noteOnExec (s : State) (note : BitVec 7) (g : Gesture) : State :=
  match alloc s with
  | some (i, t) => trigger t i note g
  | none => s

/-- NOTE_OFF_EXEC(note, F) (45 R278): every live slot of the note is released. -/
def noteOffExec (s : State) (note : BitVec 7) (forceOff : Bool) : State :=
  mapLive (fun v => if v.note = note then release forceOff v else v) s

/-! ## Event queue -/

/-- Insert directly after the last event whose offset ≤ ev.offset, or at the head (45 R280). -/
def insertEvent (ev : Event) : List Event → List Event
  | [] => [ev]
  | q :: rest => if (q :: rest).any (fun r => r.offset ≤ ev.offset) then q :: insertEvent ev rest else ev :: q :: rest

/-- ENQUEUE(ev) (45 R280). -/
def enqueue (s : State) (kind : EventKind) (note : BitVec 7) (ofs : BitVec 15) : State :=
  { s with
    queue := insertEvent ⟨kind, note, ofs, s.nextSeq⟩ s.queue
    nextSeq := s.nextSeq + 1 }

/-- The queue holds EQ_CAP events (45 R281). -/
def queueFull (s : State) : Bool := decide (Config.eqCap ≤ s.queue.length)

/-- Carry-over after a block of n frames (45 R282). -/
def carryOver (n : Nat) (s : State) : State :=
  { s with queue := s.queue.map fun ev => { ev with offset := ev.offset - BitVec.ofNat 15 n } }

/-- Apply one event (45 R283). -/
def dispatchEvent (s : State) (ev : Event) : State :=
  match ev.kind with
  | .noteOn g => noteOnExec s ev.note g
  | .noteOff forceOff => noteOffExec s ev.note forceOff

end Sys2Proof.Machine
end

