-- ==== Sys2Proof/Machine/Block.lean ====
section
/-!
DEFINITION. The block loop of PROCESS (45_commands.md R283 to R288).
-/

namespace Sys2Proof.Machine

/-- Drain the events due at frame n from the front of the queue `q` of the state (45 R283). -/
def drainDue (n : Nat) : (q : List Event) → State → State
  | [], s => s
  | ev :: rest, s =>
    if ev.offset.toNat = n then drainDue n rest (dispatchEvent { s with queue := rest } ev) else s

/-- Add one slot to the running sum: an Idle slot adds nothing and is not stepped (45 R283, R284). -/
def mixSlot (acc : F32 × State) (i : Fin 16) : F32 × State :=
  if inUse acc.2 i && (voice acc.2 i).active then
    let r := voiceStep acc.2 (voice acc.2 i)
    (fadd acc.1 r.1, setVoice acc.2 i r.2)
  else acc

/-- The sum of the voices in slot-index order from +0.0, and the state with them stepped (45 R284). -/
def mixVoices (s : State) : F32 × State := allSlots.foldl mixSlot (Config.zero, s)

/-- The engine clamp to [−SUM_LIM, SUM_LIM] (45 R285). -/
def engineClamp (sum : F32) : F32 := fclamp sum Config.minusSumLim Config.sumLim

/-- CLIP_COUNT after a frame: saturating, one more if the clamp changed the value (45 R285). -/
def clipAfter (count : BitVec 32) (sum : F32) : BitVec 32 :=
  if feq (engineClamp sum) sum then count
  else if count = 0xFFFFFFFF#32 then count else count + 1

/-- OUT[c][n] ← out for c < channels (45 R286). -/
def writeOut (m : Memory) (channels n : Nat) (out : F32) : Memory :=
  (List.range channels).foldl (fun m c => writeWord m (outAddr c n) out) m

/-- What a frame does once its events have been applied: mix, clamp, write, count (45 R283 to R287). -/
def emitFrame (channels n : Nat) (s : State) : State :=
  let r := mixVoices s
  { r.2 with
    clipCount := clipAfter r.2.clipCount r.1
    mem := writeOut r.2.mem channels n (engineClamp r.1)
    sampleCount := r.2.sampleCount + 1 }

/-- One frame (45 R283). -/
def frame (channels : Nat) (s : State) (n : Nat) : State :=
  emitFrame channels n (drainDue n s.queue s)

/-- The frames 0..n−1 of a block. -/
def frames (channels n : Nat) (s : State) : State := (List.range n).foldl (frame channels) s

/-- FRAME_LOOP(C, N) (45 R283). -/
def frameLoop (channels n : Nat) (s : State) : State := carryOver n (frames channels n s)

end Sys2Proof.Machine
end

