-- ==== Sys2Proof/Machine/Recompute.lean ====
section
/-!
DEFINITION. RECOMPUTE(id, old): what a write that changed a parameter recomputes on a prepared core
(45_commands.md R303; 40 R155, 41 R171, 42 R191 to R193, 43 R211, R226, R227). "Every live slot" is every
slot i < MAX_VOICES_CFG with state ≠ Idle (log entry 9).
-/

namespace Sys2Proof.Machine

/-- EXC_DERIVE for every live slot; x, v, z kept. -/
def recomputeExciters (s : State) : State := mapLive (fun v => { v with exc := excDerive s v.g v.f v.exc }) s

/-- M and WG_FUND, then gl and RG for every live slot; rails kept (42 R191, R193, R195). -/
def recomputeLength (s : State) : State :=
  let t := { s with delay := delayOf s, wgFund := wgFundOf s }
  mapLive (voiceWgCoeffs t) t

/-- R_EFF, then gl and RG for every live slot (42 R192, R193; log entry 8). -/
def recomputeReflection (s : State) : State :=
  let t := { s with rEff := rEffOf s }
  mapLive (voiceWgCoeffs t) t

/-- gl and RG for every live slot (42 R193). -/
def recomputeLoss (s : State) : State := mapLive (voiceWgCoeffs s) s

/-- B[cur] coefficients for every live slot (43 R227). -/
def recomputeBanks (s : State) : State := mapLive (voiceBankReload s) s

/-- HORN_SWITCH to the table's hornType for every live slot (43 R226). -/
def recomputeHorn (s : State) : State := mapLive (hornSwitch s (hornIndex s)) s

/-- ba and bb for every live slot (43 R211). -/
def recomputeBells (s : State) : State := mapLive (voiceBellCoeffs s) s

/-- r[0], then the re-lock of channel 0 for every live slot (40 R141, R142, R155). -/
def recomputeRatio0 (s : State) : State :=
  let t := { s with ratio0 := ratio0Of s }
  mapLive (relock0 t) t

/-- r[1], then the re-lock of channel 1 for every live slot (40 R141, R142, R155). -/
def recomputeRatio1 (s : State) : State :=
  let t := { s with ratio1 := ratio1Of s }
  mapLive (relock1 t) t

/-- RECOMPUTE by the parameter written (45 R303). -/
def recompute (p : Param) (s : State) : State :=
  match p with
  | .lipTension | .mouthPressure | .growlAmount | .lipMass | .lipStiffness => recomputeExciters s
  | .nonlinearity | .chaosThreshold | .sub1Mix | .sub2Mix => s
  | .lengthMeters => recomputeLength s
  | .reflectionCoeff | .flareFactor | .boreShape => recomputeReflection s
  | .lossPerMeter => recomputeLoss s
  | .brightness | .warmth | .metalness => recomputeBanks s
  | .customFreq0 | .customFreq1 | .customFreq2 | .customFreq3 => recomputeBanks s
  | .customGain0 | .customGain1 | .customGain2 | .customGain3 => recomputeBanks s
  | .hornType => recomputeHorn s
  | .bellCutoff => recomputeBells s
  | .sub1Num | .sub1Den => recomputeRatio0 s
  | .sub2Num | .sub2Den => recomputeRatio1 s

end Sys2Proof.Machine
end

