-- ==== Sys2Proof/Machine/Commands.lean ====
section
/-!
DEFINITION. The meaning of each command (45_commands.md R290 to R301). A `run` function is the command's
rule; the `exec` function under the same name ends the command by it: RESULT and ERROR (45 R270, `finish`).
The order of checks is 60_exceptions.md R323.
-/

namespace Sys2Proof.Machine

/-! ## NOP (45 R291) -/

/-- NOP: no operation; BAD_FIELD for any nonzero word with OP 0x00 (30 R120). -/
def runNop (a : BitVec 8) (b : BitVec 16) (s : State) : CmdResult :=
  if a ≠ 0 ∨ b ≠ 0 then .failed .badField else .done s false

/-- The meaning of NOP. -/
def execNop (a : BitVec 8) (b : BitVec 16) (s : State) : Host.Outcome State Fault Refusal :=
  .next (finish s (runNop a b s))

/-! ## PREPARE (45 R290) -/

/-- maxVoices and blockSize are in range (30 R117). -/
def prepareFieldsOk (voices : BitVec 8) (block : BitVec 16) : Bool :=
  decide (1 ≤ voices.toNat) && decide (voices.toNat ≤ Config.maxVoices) &&
    decide (1 ≤ block.toNat) && decide (block.toNat ≤ Config.maxBlock)

/-- The sample rate is a number in [FS_MIN, FS_MAX] (30 R117). -/
def sampleRateOk (fs : F32) : Bool := !fisNaN fs && !flt fs Config.fsMin && !flt Config.fsMax fs

/-- What PREPARE sets directly: the configuration, the idle pool, the empty queue, the counters, OUT. -/
def prepareBase (voices : BitVec 8) (block : BitVec 16) (fs : F32) (s : State) : State :=
  { s with
    sampleRate := fs
    blockSize := block.zeroExtend 32
    maxVoicesCfg := voices.zeroExtend 32
    prepared := true
    voices := Vector.ofFn fun i => { voice s i with state := .idle, forceOff := false }
    queue := []
    nextSeq := 0
    triggerCounter := 0
    sampleCount := 0
    clipCount := 0
    mem := clearOut s.mem }

/-- The derived globals from the table and SAMPLE_RATE (40 R141, 42 R191 to R193, 44 R242). -/
def deriveGlobals (s : State) : State :=
  { s with
    ratio0 := ratio0Of s
    ratio1 := ratio1Of s
    delay := delayOf s
    rEff := rEffOf s
    wgFund := wgFundOf s
    rFast := rFastOf s }

/-- PREPARE(v, b, fs), fs = f32(ARG0). -/
def runPrepare (voices : BitVec 8) (block : BitVec 16) (s : State) : CmdResult :=
  if !prepareFieldsOk voices block then .failed .badField
  else if !sampleRateOk (argValue s 0) then .failed .badField
  else .done (deriveGlobals (prepareBase voices block (argValue s 0) s)) false

/-- The meaning of PREPARE. -/
def execPrepare (voices : BitVec 8) (block : BitVec 16) (s : State) : Host.Outcome State Fault Refusal :=
  .next (finish s (runPrepare voices block s))

/-! ## PROCESS (45 R292) -/

/-- numChannels and numFrames are in their static ranges (30 R117, 60 R323). -/
def processFieldsOk (channels : BitVec 8) (frames : BitVec 16) : Bool :=
  decide (1 ≤ channels.toNat) && decide (channels.toNat ≤ Config.maxChannels) &&
    decide (1 ≤ frames.toNat) && decide (frames.toNat ≤ Config.maxBlock)

/-- PROCESS(C, N). -/
def runProcess (channels : BitVec 8) (frames : BitVec 16) (s : State) : CmdResult :=
  if !processFieldsOk channels frames then .failed .badField
  else if !s.prepared then .failed .notPrepared
  else if s.blockSize.toNat < frames.toNat then .failed .badField
  else .done (frameLoop channels.toNat frames.toNat s) false

/-- The meaning of PROCESS. -/
def execProcess (channels : BitVec 8) (frames : BitVec 16) (s : State) : Host.Outcome State Fault Refusal :=
  .next (finish s (runProcess channels frames s))

/-! ## SET_PARAM (45 R295) -/

/-- Write a checked value to the table and recompute what depends on it, if the core is prepared and the
stored value changed (45 R295, R303). -/
def storeParam (p : Param) (x : F32) (s : State) : State :=
  let t := setParam s p x
  if s.prepared && !feq x (param s p) then recompute p t else t

/-- SET_PARAM(id, x), x = f32(ARG0). -/
def runSetParam (a bHigh id : BitVec 8) (s : State) : CmdResult :=
  if a ≠ 0 ∨ bHigh ≠ 0 then .failed .badField
  else
    match paramOfId id with
    | none => .failed .unknownParam
    | some p =>
      if fisNaN (argValue s 0) then .failed .badValue
      else
        let c := paramCheck p (argValue s 0)
        .done (storeParam p c.1 s) c.2

/-- The meaning of SET_PARAM. -/
def execSetParam (a bHigh id : BitVec 8) (s : State) : Host.Outcome State Fault Refusal :=
  .next (finish s (runSetParam a bHigh id s))

/-! ## GET_PARAM (45 R297) -/

/-- GET_PARAM(id). -/
def runGetParam (a bHigh id : BitVec 8) (s : State) : CmdResult :=
  if a ≠ 0 ∨ bHigh ≠ 0 then .failed .badField
  else
    match paramOfId id with
    | none => .failed .unknownParam
    | some p => .done { s with rdata := param s p } false

/-- The meaning of GET_PARAM. -/
def execGetParam (a bHigh id : BitVec 8) (s : State) : Host.Outcome State Fault Refusal :=
  .next (finish s (runGetParam a bHigh id s))

/-! ## SAVE_PARAMS (45 R300) -/

/-- PRESET[i] ← the i-th word of a list, from index i on. -/
def writePreset (m : Memory) : (i : Nat) → List Word → Memory
  | _, [] => m
  | i, w :: rest => writePreset (writeWord m (presetAddr i) w) (i + 1) rest

/-- The preset image of the table: MAGIC, the count, the 31 words in ascending id. -/
def presetImage (s : State) : List Word :=
  Config.presetMagic :: BitVec.ofNat 32 Config.paramCount :: allParams.map fun p => param s p

/-- SAVE_PARAMS(). -/
def runSaveParams (a : BitVec 8) (b : BitVec 16) (s : State) : CmdResult :=
  if a ≠ 0 ∨ b ≠ 0 then .failed .badField
  else .done { s with mem := writePreset s.mem 0 (presetImage s) } false

/-- The meaning of SAVE_PARAMS. -/
def execSaveParams (a : BitVec 8) (b : BitVec 16) (s : State) : Host.Outcome State Fault Refusal :=
  .next (finish s (runSaveParams a b s))

/-! ## LOAD_PARAMS (45 R301) -/

/-- The PRESET word of a parameter: PRESET[2 + k], k its rank. -/
def presetWord (s : State) (p : Param) : Word := readWord s.mem (presetAddr (2 + (paramRank p).val))

/-- PRESET holds a valid image (45 R301). -/
def presetOk (s : State) : Bool :=
  readWord s.mem (presetAddr 0) == Config.presetMagic &&
    readWord s.mem (presetAddr 1) == BitVec.ofNat 32 Config.paramCount &&
    allParams.all fun p => presetValid p (presetWord s p)

/-- Commit every PRESET word to the table, a zero as +0.0. -/
def commitPreset (s : State) : State :=
  allParams.foldl (fun t p => setParam t p (fplusZero (presetWord s p))) s

/-- RECOMPUTE, in ascending id, for every parameter whose stored value differs from the one in `old`. -/
def recomputeChanged (old : State) (s : State) : State :=
  allParams.foldl (fun t p => if feq (param s p) (param old p) then t else recompute p t) s

/-- LOAD_PARAMS(). -/
def runLoadParams (a : BitVec 8) (b : BitVec 16) (s : State) : CmdResult :=
  if a ≠ 0 ∨ b ≠ 0 then .failed .badField
  else if !presetOk s then .failed .presetInvalid
  else if s.prepared then .done (recomputeChanged s (commitPreset s)) false
  else .done (commitPreset s) false

/-- The meaning of LOAD_PARAMS. -/
def execLoadParams (a : BitVec 8) (b : BitVec 16) (s : State) : Host.Outcome State Fault Refusal :=
  .next (finish s (runLoadParams a b s))

/-! ## NOTE_ON (45 R293) -/

/-- Enqueue unless the queue is full (45 R281, R293, R294). -/
def tryEnqueue (kind : EventKind) (note : BitVec 7) (ofs : BitVec 15) (clamped : Bool) (s : State) : CmdResult :=
  if queueFull s then .failed .eqFull else .done (enqueue s kind note ofs) clamped

/-- NOTE_ON(note, ofs, g). -/
def runNoteOn (r : BitVec 1) (note : BitVec 7) (f : BitVec 1) (ofs : BitVec 15) (s : State) : CmdResult :=
  if r ≠ 0 ∨ f ≠ 0 then .failed .badField
  else if !s.prepared then .failed .notPrepared
  else
    match gestureCheck (gestureArgs s) with
    | .badValue => .failed .badValue
    | .isOff => tryEnqueue (.noteOff false) note ofs false s
    | .on g clamped => tryEnqueue (.noteOn g) note ofs clamped s

/-- The meaning of NOTE_ON. -/
def execNoteOn (r : BitVec 1) (note : BitVec 7) (f : BitVec 1) (ofs : BitVec 15) (s : State) :
    Host.Outcome State Fault Refusal :=
  .next (finish s (runNoteOn r note f ofs s))

/-! ## NOTE_OFF (45 R294) -/

/-- NOTE_OFF(note, F, ofs). -/
def runNoteOff (r : BitVec 1) (note : BitVec 7) (f : BitVec 1) (ofs : BitVec 15) (s : State) : CmdResult :=
  if r ≠ 0 then .failed .badField
  else if !s.prepared then .failed .notPrepared
  else tryEnqueue (.noteOff (f == 1)) note ofs false s

/-- The meaning of NOTE_OFF. -/
def execNoteOff (r : BitVec 1) (note : BitVec 7) (f : BitVec 1) (ofs : BitVec 15) (s : State) :
    Host.Outcome State Fault Refusal :=
  .next (finish s (runNoteOff r note f ofs s))

/-! ## NOTE_ON_NOW (45 R298) -/

/-- NOTE_ON_NOW(note, g). -/
def runNoteOnNow (r : BitVec 1) (note : BitVec 7) (b : BitVec 16) (s : State) : CmdResult :=
  if r ≠ 0 ∨ b ≠ 0 then .failed .badField
  else if !s.prepared then .failed .notPrepared
  else
    match gestureCheck (gestureArgs s) with
    | .badValue => .failed .badValue
    | .isOff => .done (noteOffExec s note false) false
    | .on g clamped => .done (noteOnExec s note g) clamped

/-- The meaning of NOTE_ON_NOW. -/
def execNoteOnNow (r : BitVec 1) (note : BitVec 7) (b : BitVec 16) (s : State) :
    Host.Outcome State Fault Refusal :=
  .next (finish s (runNoteOnNow r note b s))

/-! ## NOTE_OFF_NOW (45 R299) -/

/-- NOTE_OFF_NOW(note, F). -/
def runNoteOffNow (r : BitVec 1) (note : BitVec 7) (f : BitVec 1) (rest : BitVec 15) (s : State) : CmdResult :=
  if r ≠ 0 ∨ rest ≠ 0 then .failed .badField
  else if !s.prepared then .failed .notPrepared
  else .done (noteOffExec s note (f == 1)) false

/-- The meaning of NOTE_OFF_NOW. -/
def execNoteOffNow (r : BitVec 1) (note : BitVec 7) (f : BitVec 1) (rest : BitVec 15) (s : State) :
    Host.Outcome State Fault Refusal :=
  .next (finish s (runNoteOffNow r note f rest s))

end Sys2Proof.Machine
end

