-- ==== Sys2Proof/Machine/Dispatch.lean ====
section
/-! DEFINITION. One arm per command: the meaning each constructor of Instr has (45_commands.md R270). -/

namespace Sys2Proof.Machine

-- RUN(w) with the end of the command, for a header w with a defined OP.
def exec (i : Instr) (s : State) : Host.Outcome State Fault Refusal :=
  match i with
  | .nop a b => Sys2Proof.Machine.execNop a b s
  | .prepare voices block => Sys2Proof.Machine.execPrepare voices block s
  | .process channels frames => Sys2Proof.Machine.execProcess channels frames s
  | .setParam a bHigh id => Sys2Proof.Machine.execSetParam a bHigh id s
  | .getParam a bHigh id => Sys2Proof.Machine.execGetParam a bHigh id s
  | .saveParams a b => Sys2Proof.Machine.execSaveParams a b s
  | .loadParams a b => Sys2Proof.Machine.execLoadParams a b s
  | .noteOn r note f ofs => Sys2Proof.Machine.execNoteOn r note f ofs s
  | .noteOff r note f ofs => Sys2Proof.Machine.execNoteOff r note f ofs s
  | .noteOnNow r note b => Sys2Proof.Machine.execNoteOnNow r note b s
  | .noteOffNow r note f rest => Sys2Proof.Machine.execNoteOffNow r note f rest s

end Sys2Proof.Machine
end

