-- ==== Sys2Proof/Machine/Execute.lean ====
section
/-!
DEFINITION. EXECUTE(w) (45_commands.md R270) and one act of the host: an aligned word access, a bus error
(20_memory.md R84, R87) or the reset input (70_reset_and_hazards.md R350).
-/

namespace Sys2Proof.Machine

/-- EXECUTE(w): CMD ← w, then the command the word is; a reserved OP ends with BAD_OPCODE and changes nothing
else (45 R270, 30 R118). -/
def execute (w : Word) (s : State) : Host.Outcome State Fault Refusal :=
  let t := { s with cmd := w }
  match decode w with
  | .ok i => exec i t
  | .error _ => .next (endCommand t .badOpcode)

/-- The access is an aligned 32-bit word (20 R84). -/
def accessOk (addr : Word) (width : Width) : Bool := width == .word && addr.toNat % 4 == 0

/-- The address of CMD (10 R52). -/
abbrev cmdAddr : Nat := 0x200

/-- A read answers its word on the bus and changes nothing else (20 R89). -/
def hostRead (addr : Word) (s : State) : State := { s with response := some (busRead s addr.toNat) }

/-- A write to CMD executes a command and completes with it (20 R93); any other write stores. -/
def hostWrite (addr : Word) (w : Word) (s : State) : Host.Outcome State Fault Refusal :=
  if addr.toNat = cmdAddr then execute w s else .next (busWrite s addr.toNat w)

/-- Reset sets every piece of state, whatever its value before (70 R350); the host's accesses still to come
are the host's and stay. -/
def hostReset (s : State) : State := { State.reset with pending := s.pending }

/-- One act of the host. -/
def perform (act : HostAct) (s : State) : Host.Outcome State Fault Refusal :=
  match act with
  | .read addr width => if accessOk addr width then .next (hostRead addr s) else .fault (.busError addr)
  | .write addr width w => if accessOk addr width then hostWrite addr w s else .fault (.busError addr)
  | .reset => .next (hostReset s)

/-- The host's next act, taken from the front of the acts to come; with none to come the core holds its state
and does nothing (60 R334, 70 R352; log entry 1). -/
def performNext (s : State) : Host.Outcome State Fault Refusal :=
  match s.pending with
  | [] => .next s
  | act :: rest => perform act { s with pending := rest }

/-- The host's next act is to write this header to CMD. -/
def pendCommand (s : State) (w : Word) : State :=
  { s with pending := .write (BitVec.ofNat 32 cmdAddr) .word w :: s.pending }

end Sys2Proof.Machine
end

