-- ==== Sys2Proof/Machine/Step.lean ====
section
/-!
DEFINITION. One step of the machine: one act of the host, which for a write to CMD is one whole command
(20_memory.md R90, R92, R93). The core fetches nothing (10_state.md R33): its next instruction is the next
header the host writes to CMD (log entry 1).
-/

namespace Sys2Proof.Machine

/-- One step. -/
def step (s : State) : Host.Outcome State Fault Refusal := performNext s

/-- The state whose next step executes the header word of `nbits` bits `w`. -/
def State.withFetchWord (s : State) (nbits w : Nat) : State := pendCommand s (tableHeader nbits w)

end Sys2Proof.Machine
end

