-- ==== Sys2Proof/Rules.lean ====
section
/-!
DEFINITION. What the rules of spec/ compute, written out once more for the statements: the fields TRIGGER sets, what
RECOMPUTE derives, the nine values of a note-on, and a frame of the block loop. Each is taken from its rule with the
rule's own numbers and no operation of the machine but the arithmetic of 00_scope.md R8 to R10, VOICE_STEP,
NOTE_ON_EXEC and NOTE_OFF_EXEC; the machine never uses them. A statement that says a command leaves one of these is
thus a claim about the machine, not a repetition of it.
-/

namespace Sys2Proof.Rules

open Sys2Proof.Machine

/-! ## Notes (44 R241, R243; 45 R304) -/

/-- The table of R241, note 0 first. -/
def noteTable : List F32 :=
  [0x4102D013#32, 0x410A9760#32, 0x4112D517#32, 0x411B9041#32, 0x4124D054#32, 0x412E9D37#32, 0x4138FF49#32, 0x4143FF6A#32,
   0x414FA700#32, 0x415C0000#32, 0x416914F6#32, 0x4176F110#32, 0x4182D013#32, 0x418A9760#32, 0x4192D517#32, 0x419B9041#32,
   0x41A4D054#32, 0x41AE9D37#32, 0x41B8FF49#32, 0x41C3FF6A#32, 0x41CFA700#32, 0x41DC0000#32, 0x41E914F6#32, 0x41F6F110#32,
   0x4202D013#32, 0x420A9760#32, 0x4212D517#32, 0x421B9041#32, 0x4224D054#32, 0x422E9D37#32, 0x4238FF49#32, 0x4243FF6A#32] ++
  [0x424FA700#32, 0x425C0000#32, 0x426914F6#32, 0x4276F110#32, 0x4282D013#32, 0x428A9760#32, 0x4292D517#32, 0x429B9041#32,
   0x42A4D054#32, 0x42AE9D37#32, 0x42B8FF49#32, 0x42C3FF6A#32, 0x42CFA700#32, 0x42DC0000#32, 0x42E914F6#32, 0x42F6F110#32,
   0x4302D013#32, 0x430A9760#32, 0x4312D517#32, 0x431B9041#32, 0x4324D054#32, 0x432E9D37#32, 0x4338FF49#32, 0x4343FF6A#32,
   0x434FA700#32, 0x435C0000#32, 0x436914F6#32, 0x4376F110#32, 0x4382D013#32, 0x438A9760#32, 0x4392D517#32, 0x439B9041#32] ++
  [0x43A4D054#32, 0x43AE9D37#32, 0x43B8FF49#32, 0x43C3FF6A#32, 0x43CFA700#32, 0x43DC0000#32, 0x43E914F6#32, 0x43F6F110#32,
   0x4402D013#32, 0x440A9760#32, 0x4412D517#32, 0x441B9041#32, 0x4424D054#32, 0x442E9D37#32, 0x4438FF49#32, 0x4443FF6A#32,
   0x444FA700#32, 0x445C0000#32, 0x446914F6#32, 0x4476F110#32, 0x4482D013#32, 0x448A9760#32, 0x4492D517#32, 0x449B9041#32,
   0x44A4D054#32, 0x44AE9D37#32, 0x44B8FF49#32, 0x44C3FF6A#32, 0x44CFA700#32, 0x44DC0000#32, 0x44E914F6#32, 0x44F6F110#32] ++
  [0x4502D013#32, 0x450A9760#32, 0x4512D517#32, 0x451B9041#32, 0x4524D054#32, 0x452E9D37#32, 0x4538FF49#32, 0x4543FF6A#32,
   0x454FA700#32, 0x455C0000#32, 0x456914F6#32, 0x4576F110#32, 0x4582D013#32, 0x458A9760#32, 0x4592D517#32, 0x459B9041#32,
   0x45A4D054#32, 0x45AE9D37#32, 0x45B8FF49#32, 0x45C3FF6A#32, 0x45CFA700#32, 0x45DC0000#32, 0x45E914F6#32, 0x45F6F110#32,
   0x4602D013#32, 0x460A9760#32, 0x4612D517#32, 0x461B9041#32, 0x4624D054#32, 0x462E9D37#32, 0x4638FF49#32, 0x4643FF6A#32]

/-- A value of a note-on clamped to its domain [lo, hi], a zero as +0.0 (45 R304). -/
def noteValue (lo hi x : F32) : F32 :=
  let y := if flt x lo then lo else if flt hi x then hi else x
  if feq y 0x00000000#32 then 0x00000000#32 else y

/-- The nine values of a note-on with a velocity above zero: ARG0 to ARG8 in the order of 30 R113, clamped to the
domains of 44 R243; velocity has no low clamp (45 R304). -/
def noteValues (s : State) : Gesture where
  velocity := if flt 0x3F800000#32 s.args[0] then 0x3F800000#32 else s.args[0]
  force := noteValue 0x00000000#32 0x3F800000#32 s.args[1]
  speed := noteValue 0x00000000#32 0x3F800000#32 s.args[2]
  contactArea := noteValue 0x00000000#32 0x3F800000#32 s.args[3]
  roughness := noteValue 0x00000000#32 0x3F800000#32 s.args[4]
  scaleMeters := noteValue 0x00000000#32 0x42C80000#32 s.args[5]
  massBias := noteValue 0xBF800000#32 0x3F800000#32 s.args[6]
  airLoss := noteValue 0x00000000#32 0x3F800000#32 s.args[7]
  transientSlowing := noteValue 0x00000000#32 0x3F800000#32 s.args[8]

/-- Some value of the note-on was clamped: it is not numerically the ARG register's (45 R304). -/
def noteClamped (s : State) : Bool :=
  let g := noteValues s
  !([(g.velocity, s.args[0]), (g.force, s.args[1]), (g.speed, s.args[2]), (g.contactArea, s.args[3]),
     (g.roughness, s.args[4]), (g.scaleMeters, s.args[5]), (g.massBias, s.args[6]), (g.airLoss, s.args[7]),
     (g.transientSlowing, s.args[8])].all fun p => feq p.1 p.2)

/-- RESULT of a note-on: VALUE_CLAMPED where a value was clamped, else OK (45 R293, R298). -/
def noteResult (s : State) : ResultCode := if noteClamped s then .valueClamped else .ok

/-- ERROR after a note-on: bit 4 set where a value was clamped (10 R36, 60 R320). -/
def noteError (s : State) : BitVec 8 := s.error ||| (if noteClamped s then 0x10#8 else 0x00#8)

/-! ## What a live slot derives from the table (41 R171, 42 R193, 43 R211, R221 to R223) -/

/-- EXC_DERIVE (41 R171); x, v, z kept. -/
def exciter (s : State) (g : Gesture) (f : F32) (x : Exciter) : Exciter :=
  let meff := fclamp (fadd (param s .lipMass) g.massBias) 0x00000000#32 0x3F800000#32
  let flip := fmul f (fadd 0x3F400000#32 (fmul 0x3F000000#32 (param s .lipTension)))
  let wl := fmin (fdiv (fmul 0x40C90FDB#32 flip) s.sampleRate) 0x3F000000#32
  { x := x.x, v := x.v, z := x.z
    peff := fclamp (fmul (param s .mouthPressure) (fadd 0x3F000000#32 (fmul 0x3F000000#32 g.force)))
      0x00000000#32 0x3F800000#32
    meff := meff
    geff := fclamp (fadd (param s .growlAmount) g.roughness) 0x00000000#32 0x3F800000#32
    aeff := fadd 0x3F000000#32 (fmul 0x3F000000#32 g.contactArea)
    wl := wl
    stiff := fdiv (fmul (fmul wl wl) (fadd 0x3F000000#32 (param s .lipStiffness))) (fadd 0x3F000000#32 meff)
    cd := fmul 0x3CA3D70A#32 wl
    mu := fmul 0x3E4CCCCD#32 wl }

/-- gl (42 R193). -/
def lossGain (s : State) (airLoss : F32) : F32 :=
  fdiv 0x3F800000#32 (fadd 0x3F800000#32
    (fmul (fadd (param s .lossPerMeter) airLoss) (fmul 0x40000000#32 (param s .lengthMeters))))

/-- ba (43 R211); bb is 1.0 − ba. -/
def bellPole (s : State) (scaleMeters : F32) : F32 :=
  let fc := fclamp (fdiv (param s .bellCutoff) (fadd 0x3F800000#32 scaleMeters)) 0x41A00000#32
    (fmul 0x3EE66666#32 s.sampleRate)
  crExp (fneg (fdiv (fmul 0x40C90FDB#32 fc) s.sampleRate))

/-- The base triples (fc, g, Q) of hornType 0 to 4 (43 R222). -/
def profileTable : List (List (F32 × F32 × F32)) :=
  [[(0x44960000#32, 0x40C00000#32, 0x40400000#32),
    (0x451C4000#32, 0x40800000#32, 0x40800000#32),
    (0x456D8000#32, 0x40000000#32, 0x40A00000#32),
    (0x45ABE000#32, 0xC0400000#32, 0x40400000#32)],
   [(0x44160000#32, 0x40C00000#32, 0x40400000#32),
    (0x44A28000#32, 0x40800000#32, 0x40800000#32),
    (0x451C4000#32, 0x40000000#32, 0x40A00000#32),
    (0x457A0000#32, 0xC0400000#32, 0x40400000#32)],
   [(0x437A0000#32, 0x40C00000#32, 0x40000000#32),
    (0x442F0000#32, 0x40800000#32, 0x40400000#32),
    (0x44BB8000#32, 0x40000000#32, 0x40800000#32),
    (0x453B8000#32, 0xC0C00000#32, 0x40000000#32)],
   [(0x43C80000#32, 0x40C00000#32, 0x40400000#32),
    (0x447A0000#32, 0x40400000#32, 0x40800000#32),
    (0x45098000#32, 0x3F800000#32, 0x40800000#32),
    (0x455AC000#32, 0xC0C00000#32, 0x40400000#32)],
   [(0x43FA0000#32, 0x40A00000#32, 0x40800000#32),
    (0x44BB8000#32, 0x40A00000#32, 0x40A00000#32),
    (0x452F0000#32, 0x40400000#32, 0x40C00000#32),
    (0x458CA000#32, 0xC0000000#32, 0x40400000#32)]]

/-- The base triple of section k: the table's for hornType 0 to 4, else custom (43 R222; log entry 10). -/
def profile (s : State) (horn : Nat) (k : Fin 4) : F32 × F32 × F32 :=
  match profileTable[horn]? with
  | some row => row.getD k.val (0, 0, 0)
  | none =>
    match k with
    | 0 => (param s .customFreq0, param s .customGain0, 0x40800000#32)
    | 1 => (param s .customFreq1, param s .customGain1, 0x40800000#32)
    | 2 => (param s .customFreq2, param s .customGain2, 0x40800000#32)
    | 3 => (param s .customFreq3, param s .customGain3, 0x40800000#32)

/-- SEC_COEFF(fc, g, Q) (43 R221). -/
def sectionCoeffs (fs fc g q : F32) : Coeffs :=
  let amp := crPow10 (fdiv g 0x42200000#32)
  let w0 := fdiv (fmul 0x40C90FDB#32 fc) fs
  let al := fdiv (crSin w0) (fmul 0x40000000#32 q)
  let a0 := fadd 0x3F800000#32 (fdiv al amp)
  { b0 := fdiv (fadd 0x3F800000#32 (fmul al amp)) a0
    b1 := fdiv (fmul 0xC0000000#32 (crCos w0)) a0
    b2 := fdiv (fsub 0x3F800000#32 (fmul al amp)) a0
    a1 := fdiv (fmul 0xC0000000#32 (crCos w0)) a0
    a2 := fdiv (fsub 0x3F800000#32 (fdiv al amp)) a0 }

/-- Section k of BANK_COEFF(P[hornType]) (43 R223). -/
def bankCoeffs (s : State) (k : Fin 4) : Coeffs :=
  let base := profile s (ftoNat (param s .hornType)) k
  sectionCoeffs s.sampleRate
    (fclamp (fmul base.1 (fadd 0x3F400000#32 (fmul 0x3F000000#32 (param s .brightness)))) 0x41A00000#32
      (fmul 0x3EE66666#32 s.sampleRate))
    (if k = 0 ∨ k = 1 then fadd base.2.1 (fmul 0x41400000#32 (fsub (param s .warmth) 0x3F000000#32)) else base.2.1)
    (fmul base.2.2 (fadd 0x3F800000#32 (fmul 0x40400000#32 (param s .metalness))))

/-- A bank with the coefficients BANK_COEFF(P[hornType]), its state words kept. -/
def loaded (s : State) (b : Bank) : Bank :=
  ⟨⟨bankCoeffs s 0, b.s0.h⟩, ⟨bankCoeffs s 1, b.s1.h⟩, ⟨bankCoeffs s 2, b.s2.h⟩, ⟨bankCoeffs s 3, b.s3.h⟩⟩

/-- B[cur] reloaded, B[1 − cur] kept (43 R227). -/
def reloaded (s : State) (m : Formant) : Formant :=
  if m.cur = 0 then { m with bank0 := loaded s m.bank0 } else { m with bank1 := loaded s m.bank1 }

/-- HORN_SWITCH to P[hornType] (43 R226). -/
def switched (s : State) (m : Formant) : Formant :=
  if m.cur = 0 then { bank0 := m.bank0, bank1 := loaded s m.bank0, cur := 1, xf := 256 }
  else { bank0 := loaded s m.bank1, bank1 := m.bank1, cur := 0, xf := 256 }

/-! ## TRIGGER (44 R244) -/

/-- A section with its state words zero. -/
def silenced (sec : Section) : Section := ⟨sec.c, ⟨0, 0, 0, 0⟩⟩

/-- Every field of the slot that TRIGGER(i, note, g) leaves, from the slot `v` before it; what no rule of R244 writes,
the coefficients of B[1], is kept. -/
def triggered (s : State) (note : BitVec 7) (g : Gesture) (v : Voice) : Voice :=
  let f := noteTable.getD note.toNat 0
  let slow := fadd 0x3F800000#32 (fmul 0x41100000#32 g.transientSlowing)
  let exc := exciter s g f v.exc
  let zero : Section := ⟨⟨0, 0, 0, 0, 0⟩, ⟨0, 0, 0, 0⟩⟩
  { state := .sounding, forceOff := false, note := note, g := g, stamp := s.triggerCounter
    f := f
    e := 0x00000000#32
    aAtt := fsub 0x3F800000#32 (crExp (fdiv 0xBF800000#32
      (fmul (fmul (fmul 0x3BA3D70A#32 slow) (fsub 0x3FC00000#32 g.speed)) s.sampleRate)))
    rRel := crExp (fdiv 0xBF800000#32 (fmul (fmul 0x3E19999A#32 slow) s.sampleRate))
    pll := {
      pref := 0x00000000#32
      incRef := fdiv f s.sampleRate
      ch0 := ⟨0x00000000#32, 0x00000000#32, 0, fdiv (fmul f s.ratio0) s.sampleRate⟩
      ch1 := ⟨0x00000000#32, 0x00000000#32, 0, fdiv (fmul f s.ratio1) s.sampleRate⟩ }
    exc := { exc with x := 0x00000000#32, v := fmul 0x3DCCCCCD#32 exc.wl, z := 0x3F000000#32 }
    wg := {
      fwd := [], bwd := [], w := 0   -- every word of both rails is 0.0 (log entry 14)
      gl := lossGain s g.airLoss
      rg := fmul s.rEff (lossGain s g.airLoss) }
    bell := {
      out := 0x00000000#32
      ba := bellPole s g.scaleMeters
      bb := fsub 0x3F800000#32 (bellPole s g.scaleMeters) }
    fmt := {
      bank0 := loaded s ⟨zero, zero, zero, zero⟩
      bank1 := ⟨silenced v.fmt.bank1.s0, silenced v.fmt.bank1.s1, silenced v.fmt.bank1.s2, silenced v.fmt.bank1.s3⟩
      cur := 0
      xf := 0 } }

/-! ## RECOMPUTE (45 R303) -/

/-- Slot i is live: i < MAX_VOICES_CFG and its state is not Idle (45 R303). -/
abbrev Live (s : State) (i : Fin 16) : Prop := i.val < s.maxVoicesCfg.toNat ∧ (voice s i).state ≠ .idle

/-- Rs of 42 R192; a shape of the closed set is 0, 1, 2 or 3 (log entry 10). -/
def shaped (shape : Nat) (r fl : F32) : F32 :=
  let flared := fmul r (fmul (fsub 0x3F800000#32 fl) (fsub 0x3F800000#32 fl))
  if shape = 0 then r
  else if shape = 1 then fmul r (fsub 0x3F800000#32 (fmul 0x3F000000#32 fl))
  else if shape = 2 then flared
  else fmul 0x3F000000#32 (fadd r flared)

/-- A channel locked again to the ratio num ÷ den, r its quotient (40 R142, R155). -/
def relocked (fs f pref num den r : F32) : PllChannel :=
  ⟨wrap (fdiv (fmul pref num) den), 0x00000000#32, 0, fdiv (fmul f r) fs⟩

/-- The rows of 45 R303 on a live slot `v`, for a write of the parameters `changed` that left the table and the globals
of `t`: the exciter, waveguide, bell, formant and PLL rows, in ascending id. -/
def recomputed (changed : Param → Bool) (t : State) (v : Voice) : Voice :=
  let lip := changed .lipTension || changed .mouthPressure || changed .growlAmount || changed .lipMass ||
    changed .lipStiffness
  let bore := changed .lengthMeters || changed .lossPerMeter || changed .reflectionCoeff || changed .flareFactor ||
    changed .boreShape
  let shape := changed .brightness || changed .warmth || changed .metalness
  let custom := changed .customFreq0 || changed .customFreq1 || changed .customFreq2 || changed .customFreq3 ||
    changed .customGain0 || changed .customGain1 || changed .customGain2 || changed .customGain3
  let m := if shape then reloaded t v.fmt else v.fmt
  let m := if changed .hornType then switched t m else m
  let m := if custom then reloaded t m else m
  { v with
    exc := if lip then exciter t v.g v.f v.exc else v.exc
    wg := if bore then
        { v.wg with gl := lossGain t v.g.airLoss, rg := fmul t.rEff (lossGain t v.g.airLoss) } else v.wg
    bell := if changed .bellCutoff then
        { v.bell with ba := bellPole t v.g.scaleMeters, bb := fsub 0x3F800000#32 (bellPole t v.g.scaleMeters) }
      else v.bell
    fmt := m
    pll := {
      v.pll with
      ch0 := if changed .sub1Num || changed .sub1Den then
        relocked t.sampleRate v.f v.pll.pref (param t .sub1Num) (param t .sub1Den) t.ratio0 else v.pll.ch0
      ch1 := if changed .sub2Num || changed .sub2Den then
        relocked t.sampleRate v.f v.pll.pref (param t .sub2Num) (param t .sub2Den) t.ratio1 else v.pll.ch1 } }

/-- From `s` to `t` what the rows of 45 R303 derive from the parameters `changed` has been recomputed, and of the
derived globals and the voices nothing else. -/
def Recomputed (changed : Param → Bool) (s t : State) : Prop :=
  ((t.delay.toNat : Int) = if changed .lengthMeters then
      min (max (rneInt (fdiv (fmul (param t .lengthMeters) s.sampleRate) 0x43AB8000#32)) 1) 32767
    else s.delay.toNat) ∧
  (t.wgFund = if changed .lengthMeters then fdiv 0x43AB8000#32 (fmul 0x40000000#32 (param t .lengthMeters))
    else s.wgFund) ∧
  (t.rEff = if changed .reflectionCoeff || changed .flareFactor || changed .boreShape then
      fmin (shaped (ftoNat (param t .boreShape)) (param t .reflectionCoeff) (param t .flareFactor)) 0x3F7FBE77#32
    else s.rEff) ∧
  (t.ratio0 = if changed .sub1Num || changed .sub1Den then fdiv (param t .sub1Num) (param t .sub1Den)
    else s.ratio0) ∧
  (t.ratio1 = if changed .sub2Num || changed .sub2Den then fdiv (param t .sub2Num) (param t .sub2Den)
    else s.ratio1) ∧
  ∀ i, voice t i = if Live s i then recomputed changed t (voice s i) else voice s i

/-! ## The block loop (45 R283 to R287) -/

/-- Apply an event: NOTE_ON_EXEC or NOTE_OFF_EXEC (45 R283). -/
def applied (s : State) (ev : Event) : State :=
  match ev.kind with
  | .noteOn g => noteOnExec s ev.note g
  | .noteOff forceOff => noteOffExec s ev.note forceOff

/-- The sum of VOICE_STEP over the live slots, in slot-index order from +0.0 (45 R284). -/
def mixed (s : State) : F32 :=
  (List.finRange 16).foldl (fun sum i => if Live s i then fadd sum (voiceStep s (voice s i)).1 else sum) 0x00000000#32

/-- The engine clamp (45 R285). -/
def clamped (sum : F32) : F32 := fclamp sum 0xC0400000#32 0x40400000#32

/-- CLIP_COUNT after a frame with this sum: one more where the clamp changed it, saturating (10 R50, 45 R285). -/
def clipped (count : BitVec 32) (sum : F32) : BitVec 32 :=
  if feq (clamped sum) sum = false ∧ count ≠ 0xFFFFFFFF#32 then count + 1 else count

/-- Frame n of a block, memory apart: `b` is the state at its start, `d` the state once the events due at n have been
applied in queue order, `a` the state after its voices have been stepped. -/
def Frame (n : Nat) (b d a : State) : Prop :=
  let due := b.queue.takeWhile fun ev => ev.offset.toNat = n
  let e := due.foldl applied b
  d = { b with voices := e.voices, triggerCounter := e.triggerCounter, queue := b.queue.drop due.length } ∧
  a = { d with voices := a.voices, clipCount := clipped d.clipCount (mixed d), sampleCount := d.sampleCount + 1,
               mem := a.mem } ∧
  ∀ i, voice a i = if Live d i then (voiceStep d (voice d i)).2 else voice d i

/-- The n frames of a block from `s`: `b k` at the start of frame k, `d k` with its events applied. -/
def Frames (s : State) (n : Nat) (b d : Nat → State) : Prop :=
  b 0 = s ∧ ∀ k, k < n → Frame k (b k) (d k) (b (k + 1))

end Sys2Proof.Rules
end

