-- ==== Sys2Proof/Machine/Assembler.lean ====
section
/-!
DEFINITION. The host's assembler (30_encoding.md R122 to R124): every line expands to bus accesses. Here a line is
its parsed form: field values are natural numbers, real operands are binary32 encodings, register and parameter
names are their offsets and ids. The text itself (spelling of numbers, comments, decimal reals) is not modelled,
nor the comparison of `RD addr == word`, which is the host's (log entry 26).
-/

namespace Sys2Proof.Machine

/-- One line of a host program (30 R122, R124). -/
inductive AsmLine where
  | wr (addr word : Nat)
  | rd (addr : Nat)
  | nop
  | prepare (fs : F32) (voices block : Nat)
  | process (channels frames : Nat)
  | setParam (id : Nat) (x : F32)
  | getParam (id : Nat)
  | saveParams
  | loadParams
  | noteOn (note ofs : Nat) (g : Gesture)
  | noteOff (note ofs : Nat) (forceOff : Bool)
  | noteOnNow (note : Nat) (g : Gesture)
  | noteOffNow (note : Nat) (forceOff : Bool)
  | clrErr
  | noteOnDefault (note ofs : Nat) (vel : F32)
  | noteOnNowDefault (note : Nat) (vel : F32)
  deriving DecidableEq, Repr

/-- A word write at a byte address. -/
def asmWrite (addr : Nat) (w : Word) : HostAct := .write (BitVec.ofNat 32 addr) .word w

/-- The write of a header to CMD. -/
def asmCommand (i : Instr) : HostAct := asmWrite cmdAddr (encode i)

/-- The byte offset of ARG[i]. -/
def argAddr (i : Fin 9) : Nat := regOffset (.arg i)

/-- The nine ARG writes of a note-on, in ascending register order (30 R123). -/
def asmGesture (g : Gesture) : List HostAct :=
  [asmWrite (argAddr 0) g.velocity, asmWrite (argAddr 1) g.force, asmWrite (argAddr 2) g.speed,
   asmWrite (argAddr 3) g.contactArea, asmWrite (argAddr 4) g.roughness, asmWrite (argAddr 5) g.scaleMeters,
   asmWrite (argAddr 6) g.massBias, asmWrite (argAddr 7) g.airLoss, asmWrite (argAddr 8) g.transientSlowing]

/-- The default gesture: force, speed and contact area 0.5, everything else 0.0 (30 R124). -/
def defaultGesture (vel : F32) : Gesture :=
  ⟨vel, Config.half, Config.half, Config.half, Config.zero, Config.zero, Config.zero, Config.zero, Config.zero⟩

/-- A field value of a given width; none where it does not fit, which the assembler refuses (30 R123). -/
def asmField (width n : Nat) : Option (BitVec width) := if n < 2 ^ width then some (BitVec.ofNat width n) else none

/-- F of a note-off as a bit. -/
def asmFlag (b : Bool) : BitVec 1 := if b then 1 else 0

/-- NOTE_ON and NOTE_ON_NOW with a gesture. -/
def asmNoteOn (note ofs : Nat) (g : Gesture) : Option (List HostAct) := do
  let n ← asmField 7 note
  let o ← asmField 15 ofs
  return asmGesture g ++ [asmCommand (.noteOn 0 n 0 o)]

/-- NOTE_ON_NOW with a gesture. -/
def asmNoteOnNow (note : Nat) (g : Gesture) : Option (List HostAct) := do
  let n ← asmField 7 note
  return asmGesture g ++ [asmCommand (.noteOnNow 0 n 0)]

/-- The expansion of a line (30 R123, R124); none where the assembler refuses it. -/
def assemble : AsmLine → Option (List HostAct)
  | .wr addr word => do
    let a ← asmField 32 addr
    let w ← asmField 32 word
    return [.write a .word w]
  | .rd addr => do
    let a ← asmField 32 addr
    return [.read a .word]
  | .nop => some [asmCommand (.nop 0 0)]
  | .prepare fs voices block => do
    let v ← asmField 8 voices
    let b ← asmField 16 block
    return [asmWrite (argAddr 0) fs, asmCommand (.prepare v b)]
  | .process channels frames => do
    let c ← asmField 8 channels
    let n ← asmField 16 frames
    return [asmCommand (.process c n)]
  | .setParam id x => do
    let i ← asmField 8 id
    return [asmWrite (argAddr 0) x, asmCommand (.setParam 0 0 i)]
  | .getParam id => do
    let i ← asmField 8 id
    return [asmCommand (.getParam 0 0 i)]
  | .saveParams => some [asmCommand (.saveParams 0 0)]
  | .loadParams => some [asmCommand (.loadParams 0 0)]
  | .noteOn note ofs g => asmNoteOn note ofs g
  | .noteOff note ofs forceOff => do
    let n ← asmField 7 note
    let o ← asmField 15 ofs
    return [asmCommand (.noteOff 0 n (asmFlag forceOff) o)]
  | .noteOnNow note g => asmNoteOnNow note g
  | .noteOffNow note forceOff => do
    let n ← asmField 7 note
    return [asmCommand (.noteOffNow 0 n (asmFlag forceOff) 0)]
  | .clrErr => some [asmWrite (regOffset .error) 0x000000FF#32]
  | .noteOnDefault note ofs vel => asmNoteOn note ofs (defaultGesture vel)
  | .noteOnNowDefault note vel => asmNoteOnNow note (defaultGesture vel)

/-- The bus accesses of a host program, lines in order; none if the assembler refuses a line. -/
def assembleAll : List AsmLine → Option (List HostAct)
  | [] => some []
  | l :: rest => do
    let a ← assemble l
    let b ← assembleAll rest
    return a ++ b

end Sys2Proof.Machine
end

