-- ==== Sys2Proof/Safety.lean ====
section
/-!
DEFINITION. What counts as a legal state and a safe step, in the terms the statements use. Each predicate
names the rule that gives its bound; that reset meets them and every step keeps them are statements of
Certificates/Slice0/Obligations.lean, not assumptions.
-/

namespace Sys2Proof.Machine

/-! ## Outcomes -/

/-- The outcome is a next state. -/
def Completes (o : Host.Outcome State Fault Refusal) : Prop := ∃ t, o = .next t

/-- A step from this state meets no bus error. -/
def SafeStep (s : State) : Prop := ∀ r, step s ≠ .fault r

/-- The host's acts to come are all aligned word accesses or resets (20 R84). -/
def LegalHost (s : State) : Prop :=
  ∀ act ∈ s.pending,
    match act with
    | .read addr width => accessOk addr width = true
    | .write addr width _ => accessOk addr width = true
    | .reset => True

/-! ## Headers -/

/-- The bits of a header that its row fixes (30 R114, column "fixed bits", mask). -/
def rowMask : Instr → Word
  | .nop _ _ => 0xFFFFFFFF#32
  | .prepare _ _ => 0xFF000000#32
  | .process _ _ => 0xFF000000#32
  | .setParam _ _ _ => 0xFFFFFF00#32
  | .getParam _ _ _ => 0xFFFFFF00#32
  | .saveParams _ _ => 0xFFFFFFFF#32
  | .loadParams _ _ => 0xFFFFFFFF#32
  | .noteOn _ _ _ _ => 0xFF808000#32
  | .noteOff _ _ _ _ => 0xFF800000#32
  | .noteOnNow _ _ _ => 0xFF80FFFF#32
  | .noteOffNow _ _ _ _ => 0xFF807FFF#32

/-- What a row fixes them to (30 R114, column "fixed bits", match). -/
def rowMatch : Instr → Word
  | .nop _ _ => 0x00000000#32
  | .prepare _ _ => 0x01000000#32
  | .process _ _ => 0x02000000#32
  | .setParam _ _ _ => 0x03000000#32
  | .getParam _ _ _ => 0x04000000#32
  | .saveParams _ _ => 0x05000000#32
  | .loadParams _ _ => 0x06000000#32
  | .noteOn _ _ _ _ => 0x10000000#32
  | .noteOff _ _ _ _ => 0x11000000#32
  | .noteOnNow _ _ _ => 0x12000000#32
  | .noteOffNow _ _ _ _ => 0x13000000#32

/-- The reserved opcodes (30 R118): 0x07-0x0F and 0x14-0xFF. -/
def ReservedOp (op : BitVec 8) : Prop := (0x07 ≤ op.toNat ∧ op.toNat ≤ 0x0F) ∨ 0x14 ≤ op.toNat

/-- A register a host write leaves alone: access RO (10 R52). -/
def ReadOnlyReg (r : Reg) : Prop := r ≠ .error ∧ r ≠ .cmd ∧ ∀ i, r ≠ .arg i

/-! ## Memories -/

/-- A byte address inside OUT or PRESET (20 R81). -/
def InWindow (a : Nat) : Prop := (outBase ≤ a ∧ a < outEnd) ∨ (presetBase ≤ a ∧ a < presetEnd)

/-- The host memory is canonical and holds bytes of OUT and PRESET only (10 R53, R54; 20 R81). -/
def MemoryLegal (s : State) : Prop := s.mem.wf ∧ ∀ c ∈ s.mem, InWindow c.1

/-- A rail is canonical and has indices below CAP (10 R46). -/
def RailLegal (r : Rail) : Prop := storeWf r ∧ ∀ c ∈ r, c.1 < Config.cap

/-- Both rails of every slot are legal. -/
def RailsLegal (s : State) : Prop := ∀ i, RailLegal (voice s i).wg.fwd ∧ RailLegal (voice s i).wg.bwd

/-! ## Configuration and pool -/

/-- MAX_VOICES_CFG and BLOCK_SIZE are in range, and at least 1 once prepared (10 R39, 30 R117). -/
def ConfigLegal (s : State) : Prop :=
  s.maxVoicesCfg.toNat ≤ Config.maxVoices ∧ s.blockSize.toNat ≤ Config.maxBlock ∧
    (s.prepared = true →
      1 ≤ s.maxVoicesCfg.toNat ∧ 1 ≤ s.blockSize.toNat ∧ sampleRateOk s.sampleRate = true)

/-- Slots at or beyond MAX_VOICES_CFG are Idle (10 R39, 45 R272). -/
def PoolLegal (s : State) : Prop :=
  ∀ i : Fin 16, s.maxVoicesCfg.toNat ≤ i.val → (voice s i).state = .idle

/-- M is in 1..CAP−1 (10 R42). -/
def DelayLegal (s : State) : Prop := 1 ≤ s.delay.toNat ∧ s.delay.toNat ≤ Config.cap - 1

/-- The crossfade count of every slot is in 0..XF_LEN (10 R48). -/
def CrossfadeLegal (s : State) : Prop := ∀ i, (voice s i).fmt.xf.toNat ≤ Config.xfLen

/-- The queue holds at most EQ_CAP events, ordered by offset (10 R49). -/
def QueueLegal (s : State) : Prop :=
  s.queue.length ≤ Config.eqCap ∧ s.queue.Pairwise fun a b => a.offset ≤ b.offset

/-! ## Parameters -/

/-- x is a value the table may hold for p: a number in [lo, hi], not −0.0, integral for int and enum
(10 R40; 45 R302, R305). -/
def paramStored (p : Param) (x : F32) : Bool :=
  fle (paramRow p).lo x && fle x (paramRow p).hi && x != 0x80000000#32 && (!paramIntegral p || frne x == x)

/-- Every stored parameter is legal. -/
def ParamsLegal (s : State) : Prop := ∀ p, paramStored p (param s p) = true

/-! ## Samples -/

/-- x is a number with lo ≤ x ≤ hi. -/
def within (lo hi x : F32) : Bool := fle lo x && fle x hi

/-- The sample at OUT[c][n] (20 R99). -/
def outWord (s : State) (c n : Nat) : F32 := busRead s (outAddr c n)

/-- The word PRESET[i]. -/
def presetAt (s : State) (i : Nat) : Word := busRead s (presetAddr i)

/-- Every word of OUT lies in [−SUM_LIM, SUM_LIM] (45 R285). -/
def OutputBounded (s : State) : Prop :=
  ∀ c n, c < Config.maxChannels → n < Config.maxBlock →
    within Config.minusSumLim Config.sumLim (outWord s c n) = true

/-- The integral accumulators of every slot lie in [−I_LIM, I_LIM] (10 R44, 40 R145). -/
def IntegratorsBounded (s : State) : Prop :=
  ∀ i, within Config.minusILim Config.iLim (voice s i).pll.ch0.integ = true ∧
    within Config.minusILim Config.iLim (voice s i).pll.ch1.integ = true

/-- The output words of a section lie in [−1024, 1024] (43 R224, R228). -/
def SectionBounded (sec : Section) : Prop :=
  within Config.minusF1024 Config.f1024 sec.h.y1 = true ∧ within Config.minusF1024 Config.f1024 sec.h.y2 = true

/-- Every section of a bank is bounded. -/
def BankBounded (b : Bank) : Prop :=
  SectionBounded b.s0 ∧ SectionBounded b.s1 ∧ SectionBounded b.s2 ∧ SectionBounded b.s3

/-- Every section of every slot is bounded (43 R228). -/
def FormantsBounded (s : State) : Prop :=
  ∀ i, BankBounded (voice s i).fmt.bank0 ∧ BankBounded (voice s i).fmt.bank1

end Sys2Proof.Machine
end

