-- ==== Sys2Proof/Certificates/Slice0/Obligations.lean ====
section
/-!
DEFINITION. The statements for the provers: what the numbered rules of spec/ say of the commands, the host's
accesses and the invariants of the machine. OBLIGATIONS.json lists them with the rules they rest on.
-/

open Sys2Proof Sys2Proof.Machine

/-! ## Headers (30_encoding.md) -/

/-- R111, R112, R114: the header of a command decodes to that command, with every field at every value. -/
def Obligations.EncodeThenDecode : Prop :=
  ∀ (i : Instr) (rest : List Byte),
    decode (encode i) = .ok i ∧
      decodeBytes ([byteOfWord (encode i) 0, byteOfWord (encode i) 1, byteOfWord (encode i) 2,
        byteOfWord (encode i) 3] ++ rest) = .ok (i, rest)

/-- R121: a word that decodes is the header of what it decodes to; no bit of it is dropped. -/
def Obligations.DecodeThenEncode : Prop := ∀ (w : Word) (i : Instr), decode w = .ok i → encode i = w

/-- R125 and the rows of R114: headers written out bit by bit. -/
def Obligations.HandWrittenHeadersDecode : Prop :=
  decode 0x00000000#32 = .ok (.nop 0 0) ∧
  decode 0x01080100#32 = .ok (.prepare 8 256) ∧
  decode 0x02020100#32 = .ok (.process 2 256) ∧
  decode 0x03000016#32 = .ok (.setParam 0 0 0x16) ∧
  decode 0x103C0064#32 = .ok (.noteOn 0 60 0 100) ∧
  decode 0x113C8005#32 = .ok (.noteOff 0 60 1 5) ∧
  decode 0x12450000#32 = .ok (.noteOnNow 0 69 0)

/-- R119 with the mask and match of R114: a header of a defined OP is well formed exactly where it matches its row,
and one that is not ends with BAD_FIELD and changes no other state. -/
def Obligations.ReservedBitsEndBadField : Prop :=
  ∀ (w : Word) (i : Instr), decode w = .ok i →
    (i.wellFormed = true ↔ w &&& rowMask i = rowMatch i) ∧
      ∀ s : State, w &&& rowMask i ≠ rowMatch i →
        exec i s = .next { s with result := .badField, error := s.error ||| 0x04#8 }

/-! ## Steps (20_memory.md, 45_commands.md R270) -/

/-- R270, R93: a write to CMD of a header of a defined OP stores it and runs that command, and the step ends with
the command. The host's accesses to come are the model's own field (log entry 1). -/
def Obligations.StepRunsDecodedCommand : Prop :=
  ∀ (s : State) (w : Word) (i : Instr) (rest : List HostAct),
    s.pending = .write 0x200#32 .word w :: rest → decode w = .ok i →
      step s = exec i { s with pending := rest, cmd := w }

/-- The state that withFetchWord leaves runs the table's word at its very next step (log entry 1). -/
def Obligations.FetchWordRunsCommand : Prop :=
  ∀ (s : State) (nbits w : Nat) (i : Instr), decodeTableWord nbits w = some i →
    step (s.withFetchWord nbits w) = exec i { s with cmd := tableHeader nbits w }

/-- R118: a reserved OP ends with BAD_OPCODE and changes no other state (CMD holds the header, R32); there is no
trap. The reserved OPs are the ones the decoder rejects. -/
def Obligations.ReservedOpcodeEndsBadOpcode : Prop :=
  ∀ (s : State) (w : Word) (rest : List HostAct),
    (decode w = .error (.reservedOpcode (headerField w 24 8)) ↔ ReservedOp (headerField w 24 8)) ∧
      (s.pending = .write 0x200#32 .word w :: rest → ReservedOp (headerField w 24 8) →
        step s = .next { s with pending := rest, cmd := w, result := .badOpcode, error := s.error ||| 0x02#8 })

/-- R84, R87: an access of another width or at a misaligned address faults; a fault leaves no state. -/
def Obligations.BadAccessesFault : Prop :=
  ∀ (s : State) (addr : Word) (width : Width) (w : Word) (rest : List HostAct),
    (width ≠ .word ∨ addr.toNat % 4 ≠ 0) →
      (s.pending = .read addr width :: rest → step s = .fault (.busError addr)) ∧
      (s.pending = .write addr width w :: rest → step s = .fault (.busError addr))

/-- R325, R334, R352: a host that makes aligned word accesses never meets a fault or a refusal: every access, command
and reset completes, and a core with no access to come holds its state (log entry 1). -/
def Obligations.LegalHostNeverStops : Prop :=
  (∀ s : State, LegalHost s → ∃ t, step s = .next t ∧ LegalHost t) ∧
    ∀ s : State, s.pending = [] → step s = .next s

/-- R52 with R31, R32, R34 to R39, R50, R51: the register map, each offset and the word a read of it answers, written out
of the state; a read has no side effect (R89). That STATUS bits 31:3 and ERROR bits 31:8 hold nothing is log entry 15,
the bus answer is the model's own field (log entry 2). -/
def Obligations.RegisterReadsAnswerTheirWord : Prop :=
  ∀ (s : State) (rest : List HostAct),
    let answers := fun (offset w : Word) =>
      s.pending = .read offset .word :: rest → step s = .next { s with pending := rest, response := some w }
    answers 0x000 0x53484731 ∧ answers 0x004 0x00000001 ∧ answers 0x04C 0x04020210 ∧ answers 0x050 0x00401000 ∧
    answers 0x008 (BitVec.ofNat 32 ((if s.prepared then 1 else 0) + (if s.queue.length = 0 then 0 else 2) +
      (if s.queue.length < 64 then 0 else 4))) ∧
    answers 0x00C (BitVec.ofNat 32 s.error.toNat) ∧
    answers 0x010 (match s.result with
      | .ok => 0 | .notPrepared => 1 | .badOpcode => 2 | .badField => 3 | .unknownParam => 4 | .valueClamped => 5
      | .badValue => 6 | .eqFull => 7 | .presetInvalid => 8) ∧
    answers 0x014 s.rdata ∧
    answers 0x018 (BitVec.ofNat 32 ((List.finRange 16).countP fun i =>
      decide (i.val < s.maxVoicesCfg.toNat ∧ s.voices[i].state ≠ .idle))) ∧
    (∃ mask : Word, answers 0x01C mask ∧ (∀ k, 16 ≤ k → mask.getLsbD k = false) ∧
      ∀ i : Fin 16, mask.getLsbD i.val = decide (s.voices[i].state ≠ .idle)) ∧
    (∃ states : Word, answers 0x020 states ∧ ∀ i : Fin 16, states.extractLsb' (2 * i.val) 2 =
      match s.voices[i].state with | .idle => 0 | .sounding => 1 | .releasing => 2) ∧
    answers 0x024 s.sampleRate ∧ answers 0x028 s.blockSize ∧ answers 0x02C s.maxVoicesCfg ∧
    answers 0x030 (BitVec.ofNat 32 s.queue.length) ∧ answers 0x034 s.clipCount ∧ answers 0x038 s.wgFund ∧
    answers 0x03C (BitVec.ofNat 32 s.delay.toNat) ∧ answers 0x040 s.triggerCounter ∧
    answers 0x044 (BitVec.ofNat 32 (s.sampleCount.toNat % 2 ^ 32)) ∧
    answers 0x048 (BitVec.ofNat 32 (s.sampleCount.toNat / 2 ^ 32)) ∧
    (∀ i : Fin 9, answers (BitVec.ofNat 32 (0x100 + 4 * i.val)) s.args[i]) ∧
    answers 0x200 s.cmd

/-- R86: an aligned access to an unmapped address or to an unlisted offset of the register window reads zero and
ignores a write. -/
def Obligations.UnmappedReadsZeroIgnoresWrites : Prop :=
  ∀ (s : State) (addr w : Word) (rest : List HostAct),
    addr.toNat % 4 = 0 →
    (regionOf addr.toNat = .unmapped ∨ (regionOf addr.toNat = .registers ∧ ∀ r, regOffset r ≠ addr.toNat)) →
      (s.pending = .read addr .word :: rest →
        step s = .next { s with pending := rest, response := some 0x00000000#32 }) ∧
      (s.pending = .write addr .word w :: rest → step s = .next { s with pending := rest })

/-- R88: a write to a read-only register or to the output memory changes no state. -/
def Obligations.ReadOnlyWritesIgnored : Prop :=
  ∀ (s : State) (addr w : Word) (rest : List HostAct),
    addr.toNat % 4 = 0 →
    ((∃ r, ReadOnlyReg r ∧ regOffset r = addr.toNat) ∨ (0x10000 ≤ addr.toNat ∧ addr.toNat < 0x18000)) →
    s.pending = .write addr .word w :: rest → step s = .next { s with pending := rest }

/-- R31, R36: a write to an ARG register stores the word and reads back; a write to ERROR clears the bits that are 1
in the word. Nothing else changes. -/
def Obligations.ArgAndErrorWrites : Prop :=
  ∀ (s : State) (w : Word) (rest : List HostAct),
    (∀ i : Fin 9, s.pending = .write (BitVec.ofNat 32 (0x100 + 4 * i.val)) .word w :: rest →
      step s = .next { s with pending := rest, args := s.args.set i w } ∧
        busRead { s with args := s.args.set i w } (0x100 + 4 * i.val) = w) ∧
    (s.pending = .write 0x00C#32 .word w :: rest →
      step s = .next { s with pending := rest, error := s.error &&& ~~~(w.extractLsb' 0 8) } ∧
        busRead { s with error := s.error &&& ~~~(w.extractLsb' 0 8) } 0x00C = busRead s 0x00C &&& ~~~w)

/-- R54, R83: a write to PRESET stores the word little-endian, reads back, and leaves every other byte alone. -/
def Obligations.PresetWriteReadsBack : Prop :=
  ∀ (s : State) (i : Nat) (w : Word) (rest : List HostAct), i < 64 →
    s.pending = .write (BitVec.ofNat 32 (0x20000 + 4 * i)) .word w :: rest →
      ∃ m, step s = .next { s with pending := rest, mem := m } ∧
        busRead { s with pending := rest, mem := m } (0x20000 + 4 * i) = w ∧
        (∀ k, k < 4 → readByte m (0x20000 + 4 * i + k) = w.extractLsb' (8 * k) 8) ∧
        (∀ a, a < 0x20000 + 4 * i ∨ 0x20000 + 4 * i + 4 ≤ a → readByte m a = readByte s.mem a)

/-! ## Reset (70_reset_and_hazards.md) -/

/-- R351: what the spec fixes of the reset state. R350: the reset input sets that state whatever the state was; the clause
on the input fixes the whole of the model's reset state, so for OUT and PRESET it rests on the model's choice of zeros
(log entry 3), for the other fields of a slot on log entry 4, and the input itself and the acts still to come, which it
keeps, are the model's (log entries 1, 2 and 17). -/
def Obligations.ResetState : Prop :=
  (regRead State.reset .id = 0x53484731#32 ∧ regRead State.reset .version = 0x00000001#32 ∧
    regRead State.reset .caps = 0x04020210#32 ∧ regRead State.reset .caps2 = 0x00401000#32 ∧
    regRead State.reset .status = 0 ∧ regRead State.reset .error = 0 ∧ regRead State.reset .result = 0 ∧
    regRead State.reset .rdata = 0 ∧ (∀ i, regRead State.reset (.arg i) = 0) ∧ regRead State.reset .cmd = 0 ∧
    regRead State.reset .sampleRate = 0 ∧ regRead State.reset .blockSize = 0 ∧
    regRead State.reset .maxVoicesCfg = 0 ∧ (∀ p, param State.reset p = (paramRow p).reset) ∧
    State.reset.delay = 1 ∧ State.reset.wgFund = 0 ∧ State.reset.rEff = 0 ∧ State.reset.rFast = 0 ∧
    State.reset.ratio0 = 0x3F000000#32 ∧ State.reset.ratio1 = 0x3F2AAAAB#32 ∧
    (∀ i, (voice State.reset i).state = .idle ∧ (voice State.reset i).forceOff = false) ∧
    State.reset.queue = [] ∧ State.reset.nextSeq = 0 ∧ regRead State.reset .triggerCounter = 0 ∧
    regRead State.reset .sampleCountLo = 0 ∧ regRead State.reset .sampleCountHi = 0 ∧
    regRead State.reset .clipCount = 0 ∧ regRead State.reset .activeCount = 0 ∧
    regRead State.reset .activeMask = 0 ∧ regRead State.reset .voiceState = 0 ∧ regRead State.reset .eqCount = 0 ∧
    regRead State.reset .wgFund = 0 ∧ regRead State.reset .wgDelay = 1) ∧
  ∀ (s : State) (rest : List HostAct), s.pending = .reset :: rest →
    step s = .next { State.reset with pending := rest }

/-! ## Every command (60_exceptions.md) -/

/-- R321: a command that ends with an error other than VALUE_CLAMPED has changed nothing but RESULT and ERROR. -/
def Obligations.FailedCommandChangesNothing : Prop :=
  ∀ (i : Instr) (s t : State), exec i s = .next t → t.result ≠ .ok → t.result ≠ .valueClamped →
    t = { s with result := t.result, error := t.error }

/-- R320, R36: every command writes its code to RESULT and, for a code c other than OK, sets ERROR bit c − 1; it
clears no ERROR bit. -/
def Obligations.ErrorsAreRecordedAndStick : Prop :=
  ∀ (i : Instr) (s : State), ∃ t, exec i s = .next t ∧ t.result ≠ .badOpcode ∧
    (∀ k : Nat, k < 8 →
      (busRead t 0x00C).getLsbD k =
        ((busRead s 0x00C).getLsbD k || decide ((busRead t 0x010).toNat = k + 1)))

/-- R323, R117, R354: the first of the conditions in the order of R323 is reported: a field outside its static
range, then NOT_PREPARED, then numFrames above BLOCK_SIZE. -/
def Obligations.ErrorsInPriorityOrder : Prop :=
  ∀ s : State,
    let badField : State := { s with result := .badField, error := s.error ||| 0x04#8 }
    let notPrepared : State := { s with result := .notPrepared, error := s.error ||| 0x01#8 }
    (∀ (voices : BitVec 8) (block : BitVec 16),
      (voices.toNat = 0 ∨ 16 < voices.toNat ∨ block.toNat = 0 ∨ 4096 < block.toNat ∨
        fisNaN (argValue s 0) = true ∨ flt (argValue s 0) 0x45FA0000#32 = true ∨
        flt 0x483B8000#32 (argValue s 0) = true) →
      exec (.prepare voices block) s = .next badField) ∧
    (∀ (channels : BitVec 8) (n : BitVec 16),
      if channels.toNat = 0 ∨ 2 < channels.toNat ∨ n.toNat = 0 ∨ 4096 < n.toNat then
        exec (.process channels n) s = .next badField
      else if s.prepared = false then exec (.process channels n) s = .next notPrepared
      else if s.blockSize.toNat < n.toNat then exec (.process channels n) s = .next badField
      else True) ∧
    (s.prepared = false → ∀ (note : BitVec 7) (ofs : BitVec 15) (f : BitVec 1),
      exec (.noteOn 0 note 0 ofs) s = .next notPrepared ∧ exec (.noteOff 0 note f ofs) s = .next notPrepared ∧
        exec (.noteOnNow 0 note 0) s = .next notPrepared ∧ exec (.noteOffNow 0 note f 0) s = .next notPrepared)

/-- R322: a NaN operand is refused: PREPARE with BAD_FIELD, SET_PARAM, NOTE_ON and NOTE_ON_NOW with BAD_VALUE,
LOAD_PARAMS with PRESET_INVALID. -/
def Obligations.NaNOperandsRefused : Prop :=
  ∀ s : State,
    (fisNaN (argValue s 0) = true → ∀ (voices : BitVec 8) (block : BitVec 16),
      exec (.prepare voices block) s = .next { s with result := .badField, error := s.error ||| 0x04#8 }) ∧
    (fisNaN (argValue s 0) = true → ∀ p : Param,
      exec (.setParam 0 0 (paramRow p).id) s = .next { s with result := .badValue, error := s.error ||| 0x20#8 }) ∧
    ((∃ k : Fin 9, fisNaN (argValue s k) = true) → s.prepared = true →
      ∀ (note : BitVec 7) (ofs : BitVec 15),
        exec (.noteOn 0 note 0 ofs) s = .next { s with result := .badValue, error := s.error ||| 0x20#8 } ∧
        exec (.noteOnNow 0 note 0) s = .next { s with result := .badValue, error := s.error ||| 0x20#8 }) ∧
    ((∃ p : Param, fisNaN (presetAt s (2 + (paramRank p).val)) = true) →
      exec (.loadParams 0 0) s = .next { s with result := .presetInvalid, error := s.error ||| 0x80#8 })

/-- R31, R38, R39, R41, R49, R50, R53, R54: which commands may change which state. No command writes ARG or CMD; only
GET_PARAM writes RDATA; only PREPARE writes the configuration registers and PREPARED, which it never clears; only
SET_PARAM and LOAD_PARAMS change the parameter table; only the commands named change the queue, the counters, the
derived globals, the voices, OUT and PRESET. -/
def Obligations.OnlyTheseCommandsWrite : Prop :=
  ∀ (i : Instr) (s t : State), exec i s = .next t →
    t.args = s.args ∧ t.cmd = s.cmd ∧ t.pending = s.pending ∧ t.response = s.response ∧
    (t.rdata ≠ s.rdata → ∃ a b id, i = .getParam a b id) ∧
    ((t.sampleRate ≠ s.sampleRate ∨ t.blockSize ≠ s.blockSize ∨ t.maxVoicesCfg ≠ s.maxVoicesCfg ∨
        t.prepared ≠ s.prepared ∨ t.rFast ≠ s.rFast) → ∃ v b, i = .prepare v b) ∧
    (s.prepared = true → t.prepared = true) ∧
    (t.params ≠ s.params → (∃ a b id, i = .setParam a b id) ∨ ∃ a b, i = .loadParams a b) ∧
    ((t.delay ≠ s.delay ∨ t.wgFund ≠ s.wgFund ∨ t.rEff ≠ s.rEff ∨ t.ratio0 ≠ s.ratio0 ∨ t.ratio1 ≠ s.ratio1) →
      (∃ v b, i = .prepare v b) ∨ (∃ a b id, i = .setParam a b id) ∨ ∃ a b, i = .loadParams a b) ∧
    ((t.sampleCount ≠ s.sampleCount ∨ t.clipCount ≠ s.clipCount) →
      (∃ v b, i = .prepare v b) ∨ ∃ c n, i = .process c n) ∧
    (t.nextSeq ≠ s.nextSeq →
      (∃ v b, i = .prepare v b) ∨ (∃ r n f o, i = .noteOn r n f o) ∨ ∃ r n f o, i = .noteOff r n f o) ∧
    (t.queue ≠ s.queue → (∃ v b, i = .prepare v b) ∨ (∃ c n, i = .process c n) ∨
      (∃ r n f o, i = .noteOn r n f o) ∨ ∃ r n f o, i = .noteOff r n f o) ∧
    (t.triggerCounter ≠ s.triggerCounter → (∃ v b, i = .prepare v b) ∨ (∃ c n, i = .process c n) ∨
      ∃ r n b, i = .noteOnNow r n b) ∧
    (t.voices ≠ s.voices → (∃ v b, i = .prepare v b) ∨ (∃ c n, i = .process c n) ∨
      (∃ a b id, i = .setParam a b id) ∨ (∃ a b, i = .loadParams a b) ∨ (∃ r n b, i = .noteOnNow r n b) ∨
      ∃ r n f x, i = .noteOffNow r n f x) ∧
    (∀ a, readByte t.mem a ≠ readByte s.mem a →
      (0x10000 ≤ a ∧ a < 0x18000 ∧ ((∃ v b, i = .prepare v b) ∨ ∃ c n, i = .process c n)) ∨
      (0x20000 ≤ a ∧ a < 0x20084 ∧ ∃ x y, i = .saveParams x y))

/-! ## NOP, PREPARE and PROCESS (45_commands.md) -/

/-- R120, R291: the word 0x00000000 is the no-operation, prepared or not; any other word with OP 0x00 is NOP with
BAD_FIELD. -/
def Obligations.NopCompletes : Prop :=
  ∀ (s : State) (a : BitVec 8) (b : BitVec 16),
    decode 0x00000000#32 = .ok (.nop 0 0) ∧
    exec (.nop 0 0) s = .next { s with result := .ok } ∧
    (¬(a = 0 ∧ b = 0) → exec (.nop a b) s = .next { s with result := .badField, error := s.error ||| 0x04#8 })

/-- R290: PREPARE with legal operands sets the configuration, idles every slot, empties the queue, zeroes the counters
and OUT, derives the globals, and keeps everything else. -/
def Obligations.PrepareCompletes : Prop :=
  ∀ (s : State) (voices : BitVec 8) (block : BitVec 16),
    1 ≤ voices.toNat → voices.toNat ≤ 16 → 1 ≤ block.toNat → block.toNat ≤ 4096 →
    fisNaN (argValue s 0) = false → flt (argValue s 0) 0x45FA0000#32 = false →
    flt 0x483B8000#32 (argValue s 0) = false →
    let fs := argValue s 0
    let len := param s .lengthMeters
    ∃ t, exec (.prepare voices block) s = .next t ∧
      t = { s with
        result := .ok, sampleRate := fs, blockSize := block.zeroExtend 32, maxVoicesCfg := voices.zeroExtend 32
        prepared := true, voices := t.voices, queue := [], nextSeq := 0, triggerCounter := 0, sampleCount := 0
        clipCount := 0, mem := t.mem, delay := t.delay
        ratio0 := fdiv (param s .sub1Num) (param s .sub1Den)
        ratio1 := fdiv (param s .sub2Num) (param s .sub2Den)
        rEff := fmin (shapeReflection (ftoNat (param s .boreShape)) (param s .reflectionCoeff)
          (param s .flareFactor)) Config.k0_999
        wgFund := fdiv Config.cSound (fmul Config.two len)
        rFast := crExp (fdiv Config.minusOne (fmul Config.k0_002 fs)) } ∧
      (t.delay.toNat : Int) = min (max (rneInt (fdiv (fmul len fs) Config.cSound)) 1) 32767 ∧
      (∀ j, voice t j = { voice s j with state := .idle, forceOff := false }) ∧
      (∀ a, 0x10000 ≤ a → a < 0x18000 → readByte t.mem a = 0) ∧
      (∀ a, (a < 0x10000 ∨ 0x18000 ≤ a) → readByte t.mem a = readByte s.mem a)

/-- R290: issuing PREPARE twice with the same operands leaves the same state as issuing it once. -/
def Obligations.PrepareTwiceIsOnce : Prop :=
  ∀ (s t : State) (voices : BitVec 8) (block : BitVec 16),
    exec (.prepare voices block) s = .next t → exec (.prepare voices block) t = .next t

/-- R283 to R287, R99: a PROCESS that passes its checks completes. Frame by frame the events due are applied, then every
live voice is stepped (Rules.Frame); OUT[c][k], for every channel c and frame k of the block, is the sum of the live
voices' samples of frame k in slot order from +0.0, clamped to [-3.0, 3.0], and no other byte is written; CLIP_COUNT
counts the frames the clamp changed and saturates, SAMPLE_COUNT counts every frame, and nothing else changes but the
voices, the queue and TRIGGER_COUNTER. For a state that holds a NaN, which no run reaches, the clamp and its bound rest
on the model's choice of what a clamp of a NaN is (log entry 19). -/
def Obligations.ProcessCompletes : Prop :=
  ∀ (s : State) (channels : BitVec 8) (n : BitVec 16),
    1 ≤ channels.toNat → channels.toNat ≤ 2 → 1 ≤ n.toNat → n.toNat ≤ 4096 → s.prepared = true →
    n.toNat ≤ s.blockSize.toNat →
    ∃ t b d, exec (.process channels n) s = .next t ∧ Rules.Frames s n.toNat b d ∧
      t = { s with
        result := .ok, voices := (b n.toNat).voices, queue := t.queue, triggerCounter := (b n.toNat).triggerCounter
        clipCount := (b n.toNat).clipCount, mem := t.mem, sampleCount := s.sampleCount + n.zeroExtend 64 } ∧
      (∀ c k, c < channels.toNat → k < n.toNat → outWord t c k = Rules.clamped (Rules.mixed (d k)) ∧
        within 0xC0400000#32 0x40400000#32 (outWord t c k) = true) ∧
      (∀ a, (∀ c k, c < channels.toNat → k < n.toNat → a < outAddr c k ∨ outAddr c k + 4 ≤ a) →
        readByte t.mem a = readByte s.mem a)

/-- R282, R283: in a block of N frames each event whose offset k is below N is applied, by NOTE_ON_EXEC or NOTE_OFF_EXEC
and in queue order, at frame k, before the voices of that frame are stepped (Rules.Frame); the events whose offset is at
or beyond N are still queued afterwards, in the same order, with offset N less. -/
def Obligations.ProcessCarriesEventsOver : Prop :=
  ∀ (s t : State) (channels : BitVec 8) (n : BitVec 16),
    QueueLegal s → exec (.process channels n) s = .next t → t.result = .ok →
      (t.queue = (s.queue.filter fun ev => decide (n.toNat ≤ ev.offset.toNat)).map
        fun ev => { ev with offset := BitVec.ofNat 15 (ev.offset.toNat - n.toNat) }) ∧
      ∃ b d, Rules.Frames s n.toNat b d ∧
        t.voices = (b n.toNat).voices ∧ t.triggerCounter = (b n.toNat).triggerCounter ∧
        ∀ k, k < n.toNat →
          ((b k).queue.takeWhile fun ev => ev.offset.toNat = k) = s.queue.filter fun ev => ev.offset.toNat = k

/-- R284: a block with no live slot and no event due outputs +0.0 on every frame and steps no voice. -/
def Obligations.SilentBlockWritesZeros : Prop :=
  ∀ (s : State) (channels : BitVec 8) (n : BitVec 16),
    1 ≤ channels.toNat → channels.toNat ≤ 2 → 1 ≤ n.toNat → n.toNat ≤ 4096 → s.prepared = true →
    n.toNat ≤ s.blockSize.toNat → (∀ i, inUse s i = true → (voice s i).state = .idle) →
    (∀ ev ∈ s.queue, n.toNat ≤ ev.offset.toNat) →
    ∃ t, exec (.process channels n) s = .next t ∧ t.voices = s.voices ∧ t.clipCount = s.clipCount ∧
      t.triggerCounter = s.triggerCounter ∧
      ∀ c k, c < channels.toNat → k < n.toNat → outWord t c k = 0x00000000#32

/-! ## Voices (44_voice.md, 40_pll.md, 42_waveguide.md) -/

/-- R253: every sample of a voice lies in [-2.0, 2.0], in every state of the machine and of the voice. For a state that
holds a NaN, which no run reaches, this rests on the model's choice of what a clamp of a NaN is (log entry 19). -/
def Obligations.VoiceSampleBounded : Prop :=
  ∀ (s : State) (v : Voice), within 0xC0000000#32 0x40000000#32 (voiceStep s v).1 = true

/-- R251, R240: one step of a live voice moves its envelope toward the velocity while Sounding, and multiplies it while
Releasing, becoming Idle where it falls below SILENCE; note, gesture, stamp, frequency, coefficients and forceOff
stay. -/
def Obligations.EnvelopeStep : Prop :=
  ∀ (s : State) (v : Voice),
    let t := (voiceStep s v).2
    (v.state = .sounding → t.state = .sounding ∧ t.e = fadd v.e (fmul v.aAtt (fsub v.g.velocity v.e))) ∧
    (v.state = .releasing →
      t.e = fmul v.e (if v.forceOff then s.rFast else v.rRel) ∧
      t.state = if flt t.e 0x38D1B717#32 then .idle else .releasing) ∧
    t.note = v.note ∧ t.g = v.g ∧ t.stamp = v.stamp ∧ t.f = v.f ∧ t.aAtt = v.aAtt ∧ t.rRel = v.rRel ∧
      t.forceOff = v.forceOff

/-- R176: every output of the exciter, and its position and velocity after the step, lie in [-2.0, 2.0], in every state
of the machine and of the exciter and for every drive. For a state that holds a NaN, which no run reaches, this rests on
the model's choice of what a clamp of a NaN is (log entry 19). -/
def Obligations.ExciterBounded : Prop :=
  ∀ (s : State) (u : F32) (x : Exciter),
    within 0xC0000000#32 0x40000000#32 (excStep s u x).1 = true ∧
    within 0xC0000000#32 0x40000000#32 (excStep s u x).2.x = true ∧
    within 0xC0000000#32 0x40000000#32 (excStep s u x).2.v = true

/-- R194: one step of the waveguide reads both rails M words behind the write index, writes one word of each rail, and
advances the index modulo CAP. -/
def Obligations.WaveguideStep : Prop :=
  ∀ (s : State) (x : F32) (g : Waveguide),
    let rd := (g.w.toNat + 32768 - s.delay.toNat) % 32768
    let fo := storeRead g.fwd rd
    let bo := storeRead g.bwd rd
    let r := wgStep s x g
    r.1 = fmul (fsub Config.one s.rEff) fo ∧
    storeRead r.2.fwd g.w.toNat = fadd x bo ∧ storeRead r.2.bwd g.w.toNat = fneg (fmul g.rg fo) ∧
    (∀ k, k ≠ g.w.toNat → storeRead r.2.fwd k = storeRead g.fwd k ∧ storeRead r.2.bwd k = storeRead g.bwd k) ∧
    r.2.w.toNat = (g.w.toNat + 1) % 32768 ∧ r.2.gl = g.gl ∧ r.2.rg = g.rg

/-- R16: wrap brings every finite value into [0.0, 1.0), and wrap_shortest into [-0.5, 0.5). -/
def Obligations.WrapRange : Prop :=
  ∀ x : F32, ffinite x = true →
    fle 0x00000000#32 (wrap x) = true ∧ flt (wrap x) 0x3F800000#32 = true ∧
    fle 0xBF000000#32 (wrapShortest x) = true ∧ flt (wrapShortest x) 0x3F000000#32 = true

/-! ## Arithmetic (00_scope.md) -/

/-- R8 (with IEEE 754, log entry 7): rounding a fraction num/den of units of 2^-149 gives the sign asked for; a finite
result is a nearest value, and where another value is as near, the even one; the result is infinite exactly from the
middle between the largest finite value and the next power of two on. -/
def Obligations.RoundToNearestEven : Prop :=
  ∀ (neg : Bool) (num den : Nat), 0 < den →
    let r := roundUnits neg num den
    fsign r = neg ∧ fisNaN r = false ∧
    (fisInf r = true ↔ (2 ^ 25 - 1) * 2 ^ 252 * den ≤ num) ∧
    (ffinite r = true → ∀ y : F32, ffinite y = true →
      ((magUnits r : Int) * den - num).natAbs ≤ ((magUnits y : Int) * den - num).natAbs ∧
      (((magUnits r : Int) * den - num).natAbs = ((magUnits y : Int) * den - num).natAbs → fmag y ≠ fmag r →
        fmag r % 2 = 0))

/-- R10: the two fractions between which cr_exp is rounded enclose the exact exponential, for every argument p/q up to
256. That they round alike is not stated: where they do not, the value is free (log entry 6). -/
def Obligations.ExpEnclosed : Prop :=
  ∀ p q : Nat, 0 < q → p ≤ 256 * q →
    ((expLower p q).1 : ℝ) / (expLower p q).2 ≤ Real.exp ((p : ℝ) / q) ∧
      Real.exp ((p : ℝ) / q) ≤ ((expUpper p q).1 : ℝ) / (expUpper p q).2

/-! ## Parameters (45_commands.md R295 to R305) -/

/-- R302: the setter clamp of a number gives a value of the parameter's domain, never -0.0: hi for a number above it, lo
for one below it, else the number itself, a zero as +0.0, or for an int or enum the integer nearest to it, of two as near
the even one. It is reported as clamped where that is not numerically the number given. -/
def Obligations.ParamCheckGivesDomainValue : Prop :=
  ∀ (p : Param) (x : F32), fisNaN x = false →
    let y := (paramCheck p x).1
    paramStored p y = true ∧ (paramCheck p x).2 = !feq y x ∧
      (flt x (paramRow p).lo = true → y = (paramRow p).lo) ∧ (flt (paramRow p).hi x = true → y = (paramRow p).hi) ∧
      (flt x (paramRow p).lo = false → flt (paramRow p).hi x = false →
        ((paramRow p).kind = .real → paramCheck p x = (if feq x 0x00000000#32 then 0x00000000#32 else x, false)) ∧
        ((paramRow p).kind ≠ .real → ∃ n : Int, units y = n * 2 ^ 149 ∧
          2 * (units x - n * 2 ^ 149).natAbs ≤ 2 ^ 149 ∧
          (2 * (units x - n * 2 ^ 149).natAbs = 2 ^ 149 → n % 2 = 0))) ∧
      (presetValid p x = true → paramCheck p x = (if feq x 0x00000000#32 then 0x00000000#32 else x, false))

/-- R295, R303: SET_PARAM of a number to a known parameter stores the checked value and ends with OK, or with
VALUE_CLAMPED where it was clamped. Before PREPARE, and where the stored value does not change, only the table changes;
else the row of R303 for the parameter is recomputed, in the globals and in every live slot, and nothing else
(Rules.Recomputed; that a reflection write recomputes gl with RG is R193, log entry 8). -/
def Obligations.SetParamCompletes : Prop :=
  ∀ (s : State) (p : Param), fisNaN (argValue s 0) = false →
    let c := paramCheck p (argValue s 0)
    let code : ResultCode := if c.2 then .valueClamped else .ok
    let bits : BitVec 8 := if c.2 then 0x10#8 else 0x00#8
    ∃ t, exec (.setParam 0 0 (paramRow p).id) s = .next t ∧ param t p = c.1 ∧
      t = { s with
        result := code, error := s.error ||| bits, params := s.params.set (paramRank p) c.1, delay := t.delay
        wgFund := t.wgFund, rEff := t.rEff, ratio0 := t.ratio0, ratio1 := t.ratio1, voices := t.voices } ∧
      ((s.prepared = false ∨ feq c.1 (param s p) = true) →
        t = { s with result := code, error := s.error ||| bits, params := s.params.set (paramRank p) c.1 }) ∧
      (s.prepared = true → feq c.1 (param s p) = false → Rules.Recomputed (fun q => decide (q = p)) s t)

/-- R296: SET_PARAM and GET_PARAM with an id of the listed ranges end with UNKNOWN_PARAM and change nothing else. -/
def Obligations.UnknownParamRefused : Prop :=
  ∀ (s : State) (id : BitVec 8),
    (id = 0x0E ∨ id = 0x0F ∨ (0x19 ≤ id.toNat ∧ id.toNat ≤ 0x1F) ∨ 0x28 ≤ id.toNat) →
      exec (.setParam 0 0 id) s = .next { s with result := .unknownParam, error := s.error ||| 0x08#8 } ∧
      exec (.getParam 0 0 id) s = .next { s with result := .unknownParam, error := s.error ||| 0x08#8 }

/-- R191, R193, R195, R303: on a prepared core, a write that changes lengthMeters recomputes M and WG_FUND and, in every
live slot, gl and RG; rails, write index and all else of every slot stay. -/
def Obligations.LengthWriteMovesTheTap : Prop :=
  ∀ (s : State), s.prepared = true → fisNaN (argValue s 0) = false →
    let len := (paramCheck .lengthMeters (argValue s 0)).1
    feq len (param s .lengthMeters) = false →
    ∃ t, exec (.setParam 0 0 0x08) s = .next t ∧ param t .lengthMeters = len ∧
      (t.delay.toNat : Int) = min (max (rneInt (fdiv (fmul len s.sampleRate) Config.cSound)) 1) 32767 ∧
      t.wgFund = fdiv Config.cSound (fmul Config.two len) ∧ t.rEff = s.rEff ∧
      ∀ i, voice t i =
        if inUse s i = true ∧ (voice s i).state ≠ .idle then
          let gl := fdiv Config.one (fadd Config.one
            (fmul (fadd (param s .lossPerMeter) (voice s i).g.airLoss) (fmul Config.two len)))
          { voice s i with wg := { (voice s i).wg with gl := gl, rg := fmul s.rEff gl } }
        else voice s i

/-- R226: on a prepared core, a write that changes hornType makes, in every live slot, the other bank current with the
old current bank's filter state and the new profile's coefficients, and starts a crossfade of 256 samples; the old bank
and all else of the slot stay. -/
def Obligations.HornWriteSwitchesBanks : Prop :=
  ∀ (s : State), s.prepared = true → fisNaN (argValue s 0) = false →
    let horn := (paramCheck .hornType (argValue s 0)).1
    feq horn (param s .hornType) = false →
    ∃ t, exec (.setParam 0 0 0x11) s = .next t ∧ param t .hornType = horn ∧
      ∀ i, (¬(inUse s i = true ∧ (voice s i).state ≠ .idle) → voice t i = voice s i) ∧
        (inUse s i = true → (voice s i).state ≠ .idle →
          let old := (voice s i).fmt
          let new := (voice t i).fmt
          voice t i = { voice s i with fmt := new } ∧ new.cur = 1 - old.cur ∧ new.xf = 256 ∧
          new.bank old.cur = old.bank old.cur ∧
          (new.bank new.cur).s0 = ⟨bankSecCoeff t (ftoNat horn) 0, (old.bank old.cur).s0.h⟩ ∧
          (new.bank new.cur).s1 = ⟨bankSecCoeff t (ftoNat horn) 1, (old.bank old.cur).s1.h⟩ ∧
          (new.bank new.cur).s2 = ⟨bankSecCoeff t (ftoNat horn) 2, (old.bank old.cur).s2.h⟩ ∧
          (new.bank new.cur).s3 = ⟨bankSecCoeff t (ftoNat horn) 3, (old.bank old.cur).s3.h⟩)

/-- R141, R142, R155, R303: on a prepared core, a write that changes the numerator or the denominator of a channel's ratio
recomputes the ratio and locks that channel again in every live slot; the other channel and all else of the slot stay.
That the write does so on a prepared core only, and in the slots below MAX_VOICES_CFG, is R303's reading of R142 and R155
(log entry 9). -/
def Obligations.RatioWriteRelocksItsChannel : Prop :=
  ∀ (s t : State) (p : Param), s.prepared = true → fisNaN (argValue s 0) = false →
    feq (paramCheck p (argValue s 0)).1 (param s p) = false →
    exec (.setParam 0 0 (paramRow p).id) s = .next t →
    ((p = .sub1Num ∨ p = .sub1Den) →
      let num := param t .sub1Num
      let den := param t .sub1Den
      t.ratio0 = fdiv num den ∧ t.ratio1 = s.ratio1 ∧
      ∀ i, voice t i =
        if inUse s i = true ∧ (voice s i).state ≠ .idle then
          { voice s i with pll := { (voice s i).pll with ch0 :=
            ⟨wrap (fdiv (fmul (voice s i).pll.pref num) den), 0x00000000#32, 0,
              fdiv (fmul (voice s i).f (fdiv num den)) s.sampleRate⟩ } }
        else voice s i) ∧
    ((p = .sub2Num ∨ p = .sub2Den) →
      let num := param t .sub2Num
      let den := param t .sub2Den
      t.ratio1 = fdiv num den ∧ t.ratio0 = s.ratio0 ∧
      ∀ i, voice t i =
        if inUse s i = true ∧ (voice s i).state ≠ .idle then
          { voice s i with pll := { (voice s i).pll with ch1 :=
            ⟨wrap (fdiv (fmul (voice s i).pll.pref num) den), 0x00000000#32, 0,
              fdiv (fmul (voice s i).f (fdiv num den)) s.sampleRate⟩ } }
        else voice s i)

/-- R297: GET_PARAM of a known parameter writes its stored word to RDATA and changes nothing else. -/
def Obligations.GetParamCompletes : Prop :=
  ∀ (s : State) (p : Param),
    exec (.getParam 0 0 (paramRow p).id) s = .next { s with result := .ok, rdata := param s p }

/-- R300: SAVE_PARAMS writes MAGIC, the count and the 31 table words to PRESET words 0 to 32 and changes no other byte
and no other state. -/
def Obligations.SaveParamsCompletes : Prop :=
  ∀ s : State, ∃ m, exec (.saveParams 0 0) s = .next { s with result := .ok, mem := m } ∧
    presetAt { s with mem := m } 0 = 0x47485031#32 ∧ presetAt { s with mem := m } 1 = 31 ∧
    (∀ p, presetAt { s with mem := m } (2 + (paramRank p).val) = param s p) ∧
    (∀ a, (a < 0x20000 ∨ 0x20084 ≤ a) → readByte m a = readByte s.mem a)

/-- R301, R303: LOAD_PARAMS of a valid image commits all 31 words, a zero as +0.0; on a prepared core it recomputes the
rows of R303 of the parameters whose stored value changed, from the table it leaves and in ascending id, and nothing else
(Rules.Recomputed; log entries 8 and 23). Of an invalid image it ends with PRESET_INVALID and changes nothing. -/
def Obligations.LoadParamsCompletes : Prop :=
  ∀ s : State,
    let valid := presetAt s 0 = 0x47485031#32 ∧ presetAt s 1 = 31 ∧
      ∀ p, let x := presetAt s (2 + (paramRank p).val)
        fisNaN x = false ∧ flt x (paramRow p).lo = false ∧ flt (paramRow p).hi x = false ∧
          ((paramRow p).kind ≠ .real → feq x (frne x) = true)
    (valid → ∃ t, exec (.loadParams 0 0) s = .next t ∧
      t = { s with
        result := .ok, params := t.params, delay := t.delay, wgFund := t.wgFund, rEff := t.rEff
        ratio0 := t.ratio0, ratio1 := t.ratio1, voices := t.voices } ∧
      (∀ p, let x := presetAt s (2 + (paramRank p).val)
        param t p = if feq x 0x00000000#32 then 0x00000000#32 else x) ∧
      (s.prepared = false → t = { s with result := .ok, params := t.params }) ∧
      (s.prepared = true → Rules.Recomputed (fun p => !feq (param t p) (param s p)) s t)) ∧
    (¬valid → exec (.loadParams 0 0) s = .next { s with result := .presetInvalid, error := s.error ||| 0x80#8 })

/-- R305 with R300, R301: SAVE_PARAMS followed by LOAD_PARAMS leaves every parameter bit-identical and ends with RESULT 0; nothing but
the PRESET image differs from the state before. -/
def Obligations.PresetRoundTrip : Prop :=
  ∀ s t : State, ParamsLegal s → exec (.saveParams 0 0) s = .next t →
    exec (.loadParams 0 0) t = .next { s with result := .ok, mem := t.mem }

/-! ## Notes (45_commands.md R271 to R281, R293 to R299, R304) -/

/-- R293, R279, R280: on a prepared core whose queue is not full, NOTE_ON with nine numbers enqueues a note-on with
ARG0 to ARG8 in the order of R113, each clamped to its domain of R243 (Rules.noteValues, R304), or for a velocity at or
below zero a note-off with forceOff 0, and changes nothing else; RESULT says whether a value was clamped. -/
def Obligations.NoteOnCompletes : Prop :=
  ∀ (s : State) (note : BitVec 7) (ofs : BitVec 15),
    s.prepared = true → s.queue.length < 64 → (∀ k : Fin 9, fisNaN (argValue s k) = false) →
    (fle (argValue s 0) 0x00000000#32 = true →
      exec (.noteOn 0 note 0 ofs) s = .next { s with
        result := .ok, queue := insertEvent ⟨.noteOff false, note, ofs, s.nextSeq⟩ s.queue
        nextSeq := s.nextSeq + 1 }) ∧
    (fle (argValue s 0) 0x00000000#32 = false →
      exec (.noteOn 0 note 0 ofs) s = .next { s with
        result := Rules.noteResult s, error := Rules.noteError s
        queue := insertEvent ⟨.noteOn (Rules.noteValues s), note, ofs, s.nextSeq⟩ s.queue
        nextSeq := s.nextSeq + 1 })

/-- R294: on a prepared core whose queue is not full, NOTE_OFF enqueues a note-off with its forceOff bit and changes
nothing else. -/
def Obligations.NoteOffCompletes : Prop :=
  ∀ (s : State) (note : BitVec 7) (f : BitVec 1) (ofs : BitVec 15),
    s.prepared = true → s.queue.length < 64 →
      exec (.noteOff 0 note f ofs) s = .next { s with
        result := .ok, queue := insertEvent ⟨.noteOff (f == 1), note, ofs, s.nextSeq⟩ s.queue
        nextSeq := s.nextSeq + 1 }

/-- R281: while the queue holds 64 events, STATUS.EQ_FULL reads 1, and NOTE_ON with nine numbers and NOTE_OFF end with
EQ_FULL, set ERROR bit 6 and change no other state; the immediate forms never use the queue. -/
def Obligations.QueueFullRefused : Prop :=
  ∀ (s : State) (note : BitVec 7) (ofs : BitVec 15) (f : BitVec 1), s.prepared = true →
    (s.queue.length = 64 → (busRead s 0x008).getLsbD 2 = true ∧
      ((∀ k : Fin 9, fisNaN (argValue s k) = false) →
        exec (.noteOn 0 note 0 ofs) s = .next { s with result := .eqFull, error := s.error ||| 0x40#8 }) ∧
      exec (.noteOff 0 note f ofs) s = .next { s with result := .eqFull, error := s.error ||| 0x40#8 }) ∧
    (∀ t, (exec (.noteOnNow 0 note 0) s = .next t ∨ exec (.noteOffNow 0 note f 0) s = .next t) →
      t.queue = s.queue ∧ t.nextSeq = s.nextSeq)

/-- R280: an event is inserted directly after the last queued event whose offset is at most its own, or at the head
where there is none, whatever the queue. -/
def Obligations.EventGoesAfterTheLastNotLater : Prop :=
  ∀ (ev : Event) (q : List Event),
    ∃ before after, q = before ++ after ∧ insertEvent ev q = before ++ ev :: after ∧
      (before = [] ∨ ∃ l, before.getLast? = some l ∧ l.offset ≤ ev.offset) ∧
      ∀ r ∈ after, ¬ r.offset ≤ ev.offset

/-- R271, R272, R244, R298: on a prepared core with an Idle slot in use, NOTE_ON_NOW with nine numbers and a velocity
above zero triggers the lowest-index one with its note and the nine clamped values, writing every field of the slot as
R244 and the rules it names say (Rules.triggered), and changes nothing else but TRIGGER_COUNTER and the result; no slot
that already holds the note is reused. -/
def Obligations.NoteOnNowTakesLowestIdleSlot : Prop :=
  ∀ (s : State) (note : BitVec 7) (i : Fin 16),
    s.prepared = true → (∀ k : Fin 9, fisNaN (argValue s k) = false) → fle (argValue s 0) 0x00000000#32 = false →
    i.val < s.maxVoicesCfg.toNat → (voice s i).state = .idle → (∀ j, j < i → (voice s j).state ≠ .idle) →
    ∃ t, exec (.noteOnNow 0 note 0) s = .next t ∧
      t = { s with
        result := Rules.noteResult s, error := Rules.noteError s
        voices := t.voices, triggerCounter := s.triggerCounter + 1 } ∧
      voice t i = Rules.triggered s note (Rules.noteValues s) (voice s i) ∧ ∀ j, j ≠ i → voice t j = voice s j

/-- R277, R273, R274, R244: with every slot in use busy, NOTE_ON_NOW takes the oldest Releasing slot, or where none is
Releasing the oldest Sounding one (the lower index where two are as old), its age the triggers since its own; it triggers
that slot as it would an Idle one (Rules.triggered), changes nothing else but TRIGGER_COUNTER and the result, and leaves
ACTIVE_COUNT unchanged. -/
def Obligations.NoteOnNowStealsTheOldestSlot : Prop :=
  ∀ (s : State) (note : BitVec 7) (i : Fin 16) (st : VoiceState),
    s.prepared = true → (∀ k : Fin 9, fisNaN (argValue s k) = false) → fle (argValue s 0) 0x00000000#32 = false →
    let used := fun j : Fin 16 => j.val < s.maxVoicesCfg.toNat
    let since := fun j => (s.triggerCounter - (voice s j).stamp).toNat
    (∀ j, used j → (voice s j).state ≠ .idle) → used i → (voice s i).state = st →
    (st = .releasing ∨ (st = .sounding ∧ ∀ j, used j → (voice s j).state ≠ .releasing)) →
    (∀ j, used j → (voice s j).state = st → since j < since i ∨ (since j = since i ∧ i ≤ j)) →
    ∃ t, exec (.noteOnNow 0 note 0) s = .next t ∧
      t = { s with
        result := Rules.noteResult s, error := Rules.noteError s
        voices := t.voices, triggerCounter := s.triggerCounter + 1 } ∧
      voice t i = Rules.triggered s note (Rules.noteValues s) (voice s i) ∧ (∀ j, j ≠ i → voice t j = voice s j) ∧
      busRead t 0x018 = busRead s 0x018

/-- R278, R246, R299, R279: on a prepared core NOTE_OFF_NOW, and NOTE_ON_NOW with nine numbers and a velocity at or below
zero with forceOff 0, release every live slot of the note and change nothing else. -/
def Obligations.NoteOffNowReleasesEveryMatch : Prop :=
  ∀ (s : State) (note : BitVec 7) (f : BitVec 1), s.prepared = true →
    let released := fun (forceOff : Bool) (t : State) =>
      t = { s with result := .ok, voices := t.voices } ∧
      ∀ i, voice t i =
        if inUse s i = true ∧ (voice s i).note = note then
          match (voice s i).state with
          | .idle => voice s i
          | .sounding => { voice s i with state := .releasing, forceOff := forceOff }
          | .releasing => { voice s i with forceOff := (voice s i).forceOff || forceOff }
        else voice s i
    (∃ t, exec (.noteOffNow 0 note f 0) s = .next t ∧ released (f == 1) t) ∧
    ((∀ k : Fin 9, fisNaN (argValue s k) = false) → fle (argValue s 0) 0x00000000#32 = true →
      ∃ t, exec (.noteOnNow 0 note 0) s = .next t ∧ released false t)

/-! ## Invariants -/

/-- The reset state meets every invariant below. Where the spec gives no reset value (OUT, PRESET, the fields of an Idle
slot) this rests on the model's choices (log entries 3 and 4). -/
def Obligations.ResetIsLegal : Prop :=
  MemoryLegal State.reset ∧ RailsLegal State.reset ∧ ConfigLegal State.reset ∧ PoolLegal State.reset ∧
    DelayLegal State.reset ∧ CrossfadeLegal State.reset ∧ QueueLegal State.reset ∧ ParamsLegal State.reset ∧
    OutputBounded State.reset ∧ IntegratorsBounded State.reset ∧ FormantsBounded State.reset

/-- The host memory holds bytes of OUT and PRESET only (R53, R54, R81), in the canonical form that is the model's own
choice (log entry 14). -/
def Obligations.StepKeepsMemoryLegal : Prop :=
  ∀ s t : State, MemoryLegal s → step s = .next t → MemoryLegal t

/-- Every index of a rail stays below CAP (R46, R82), and a rail keeps the canonical form that is the model's own choice
(log entry 14). -/
def Obligations.StepKeepsRailsLegal : Prop :=
  ∀ s t : State, RailsLegal s → step s = .next t → RailsLegal t

/-- The configuration stays in range, and slots at or beyond MAX_VOICES_CFG stay Idle, so that ACTIVE_COUNT never
exceeds it (R39, R274). -/
def Obligations.StepKeepsConfigAndPoolLegal : Prop :=
  ∀ s t : State, ConfigLegal s → PoolLegal s → step s = .next t →
    ConfigLegal t ∧ PoolLegal t ∧ (busRead t 0x018).toNat ≤ (busRead t 0x02C).toNat ∧ (busRead t 0x02C).toNat ≤ 16

/-- M stays in 1..CAP-1 and every crossfade count in 0..XF_LEN (R42, R48). -/
def Obligations.StepKeepsDelayAndCrossfadeLegal : Prop :=
  ∀ s t : State, DelayLegal s → CrossfadeLegal s → step s = .next t → DelayLegal t ∧ CrossfadeLegal t

/-- The queue holds at most EQ_CAP events ordered by offset (R49, R280, R282). -/
def Obligations.StepKeepsQueueLegal : Prop :=
  ∀ s t : State, QueueLegal s → step s = .next t → QueueLegal t

/-- Every parameter holds a number of its domain, integral for int and enum, never -0.0 (R40, R302, R305). -/
def Obligations.StepKeepsParamsLegal : Prop :=
  ∀ s t : State, ParamsLegal s → step s = .next t → ParamsLegal t

/-- Every word of OUT lies in [-3.0, 3.0] (R285). At reset this rests on the model's choice that OUT holds zeros (log
entry 3), for a state that holds a NaN, which no run reaches, on its choice of what a clamp of a NaN is (log entry 19). -/
def Obligations.StepKeepsOutputBounded : Prop :=
  ∀ s t : State, OutputBounded s → step s = .next t → OutputBounded t

/-- Every integral accumulator of the PLL stays in [-I_LIM, I_LIM] (R44, R145, R153). At reset, and for a state that holds
a NaN, this rests on the model's choices (log entries 4 and 19). -/
def Obligations.StepKeepsIntegratorsBounded : Prop :=
  ∀ s t : State, IntegratorsBounded s → step s = .next t → IntegratorsBounded t

/-- Every output word of a formant section stays in [-1024, 1024] (R224, R228). At reset, and for a state that holds a
NaN, this rests on the model's choices (log entries 4 and 19). -/
def Obligations.StepKeepsFormantsBounded : Prop :=
  ∀ s t : State, FormantsBounded s → step s = .next t → FormantsBounded t
end

