-- ==== Sys2Proof/Laws/State.lean ====
section
/-!
SUPPORT. One lemma per field per named update of State, true by definition, so that no proof unfolds a record
update. Voice tables that an update rewrites whole have their lemma in Laws/Ops.lean.
-/

namespace Sys2Proof.Machine

/-! ## setParam -/

@[simp] theorem setParam_args (s : State) (p : Param) (x : F32) : (setParam s p x).args = s.args := rfl
@[simp] theorem setParam_cmd (s : State) (p : Param) (x : F32) : (setParam s p x).cmd = s.cmd := rfl
@[simp] theorem setParam_prepared (s : State) (p : Param) (x : F32) : (setParam s p x).prepared = s.prepared := rfl
@[simp] theorem setParam_error (s : State) (p : Param) (x : F32) : (setParam s p x).error = s.error := rfl
@[simp] theorem setParam_result (s : State) (p : Param) (x : F32) : (setParam s p x).result = s.result := rfl
@[simp] theorem setParam_rdata (s : State) (p : Param) (x : F32) : (setParam s p x).rdata = s.rdata := rfl
@[simp] theorem setParam_sampleRate (s : State) (p : Param) (x : F32) : (setParam s p x).sampleRate = s.sampleRate := rfl
@[simp] theorem setParam_blockSize (s : State) (p : Param) (x : F32) : (setParam s p x).blockSize = s.blockSize := rfl
@[simp] theorem setParam_maxVoicesCfg (s : State) (p : Param) (x : F32) : (setParam s p x).maxVoicesCfg = s.maxVoicesCfg := rfl
@[simp] theorem setParam_params (s : State) (p : Param) (x : F32) : (setParam s p x).params = s.params.set (paramRank p) x := rfl
@[simp] theorem setParam_delay (s : State) (p : Param) (x : F32) : (setParam s p x).delay = s.delay := rfl
@[simp] theorem setParam_wgFund (s : State) (p : Param) (x : F32) : (setParam s p x).wgFund = s.wgFund := rfl
@[simp] theorem setParam_rEff (s : State) (p : Param) (x : F32) : (setParam s p x).rEff = s.rEff := rfl
@[simp] theorem setParam_rFast (s : State) (p : Param) (x : F32) : (setParam s p x).rFast = s.rFast := rfl
@[simp] theorem setParam_ratio0 (s : State) (p : Param) (x : F32) : (setParam s p x).ratio0 = s.ratio0 := rfl
@[simp] theorem setParam_ratio1 (s : State) (p : Param) (x : F32) : (setParam s p x).ratio1 = s.ratio1 := rfl
@[simp] theorem setParam_voices (s : State) (p : Param) (x : F32) : (setParam s p x).voices = s.voices := rfl
@[simp] theorem setParam_queue (s : State) (p : Param) (x : F32) : (setParam s p x).queue = s.queue := rfl
@[simp] theorem setParam_nextSeq (s : State) (p : Param) (x : F32) : (setParam s p x).nextSeq = s.nextSeq := rfl
@[simp] theorem setParam_triggerCounter (s : State) (p : Param) (x : F32) : (setParam s p x).triggerCounter = s.triggerCounter := rfl
@[simp] theorem setParam_sampleCount (s : State) (p : Param) (x : F32) : (setParam s p x).sampleCount = s.sampleCount := rfl
@[simp] theorem setParam_clipCount (s : State) (p : Param) (x : F32) : (setParam s p x).clipCount = s.clipCount := rfl
@[simp] theorem setParam_mem (s : State) (p : Param) (x : F32) : (setParam s p x).mem = s.mem := rfl
@[simp] theorem setParam_pending (s : State) (p : Param) (x : F32) : (setParam s p x).pending = s.pending := rfl
@[simp] theorem setParam_response (s : State) (p : Param) (x : F32) : (setParam s p x).response = s.response := rfl

/-! ## setVoice -/

@[simp] theorem setVoice_args (s : State) (i : Fin 16) (v : Voice) : (setVoice s i v).args = s.args := rfl
@[simp] theorem setVoice_cmd (s : State) (i : Fin 16) (v : Voice) : (setVoice s i v).cmd = s.cmd := rfl
@[simp] theorem setVoice_prepared (s : State) (i : Fin 16) (v : Voice) : (setVoice s i v).prepared = s.prepared := rfl
@[simp] theorem setVoice_error (s : State) (i : Fin 16) (v : Voice) : (setVoice s i v).error = s.error := rfl
@[simp] theorem setVoice_result (s : State) (i : Fin 16) (v : Voice) : (setVoice s i v).result = s.result := rfl
@[simp] theorem setVoice_rdata (s : State) (i : Fin 16) (v : Voice) : (setVoice s i v).rdata = s.rdata := rfl
@[simp] theorem setVoice_sampleRate (s : State) (i : Fin 16) (v : Voice) : (setVoice s i v).sampleRate = s.sampleRate := rfl
@[simp] theorem setVoice_blockSize (s : State) (i : Fin 16) (v : Voice) : (setVoice s i v).blockSize = s.blockSize := rfl
@[simp] theorem setVoice_maxVoicesCfg (s : State) (i : Fin 16) (v : Voice) : (setVoice s i v).maxVoicesCfg = s.maxVoicesCfg := rfl
@[simp] theorem setVoice_params (s : State) (i : Fin 16) (v : Voice) : (setVoice s i v).params = s.params := rfl
@[simp] theorem setVoice_delay (s : State) (i : Fin 16) (v : Voice) : (setVoice s i v).delay = s.delay := rfl
@[simp] theorem setVoice_wgFund (s : State) (i : Fin 16) (v : Voice) : (setVoice s i v).wgFund = s.wgFund := rfl
@[simp] theorem setVoice_rEff (s : State) (i : Fin 16) (v : Voice) : (setVoice s i v).rEff = s.rEff := rfl
@[simp] theorem setVoice_rFast (s : State) (i : Fin 16) (v : Voice) : (setVoice s i v).rFast = s.rFast := rfl
@[simp] theorem setVoice_ratio0 (s : State) (i : Fin 16) (v : Voice) : (setVoice s i v).ratio0 = s.ratio0 := rfl
@[simp] theorem setVoice_ratio1 (s : State) (i : Fin 16) (v : Voice) : (setVoice s i v).ratio1 = s.ratio1 := rfl
@[simp] theorem setVoice_voices (s : State) (i : Fin 16) (v : Voice) : (setVoice s i v).voices = s.voices.set i v := rfl
@[simp] theorem setVoice_queue (s : State) (i : Fin 16) (v : Voice) : (setVoice s i v).queue = s.queue := rfl
@[simp] theorem setVoice_nextSeq (s : State) (i : Fin 16) (v : Voice) : (setVoice s i v).nextSeq = s.nextSeq := rfl
@[simp] theorem setVoice_triggerCounter (s : State) (i : Fin 16) (v : Voice) : (setVoice s i v).triggerCounter = s.triggerCounter := rfl
@[simp] theorem setVoice_sampleCount (s : State) (i : Fin 16) (v : Voice) : (setVoice s i v).sampleCount = s.sampleCount := rfl
@[simp] theorem setVoice_clipCount (s : State) (i : Fin 16) (v : Voice) : (setVoice s i v).clipCount = s.clipCount := rfl
@[simp] theorem setVoice_mem (s : State) (i : Fin 16) (v : Voice) : (setVoice s i v).mem = s.mem := rfl
@[simp] theorem setVoice_pending (s : State) (i : Fin 16) (v : Voice) : (setVoice s i v).pending = s.pending := rfl
@[simp] theorem setVoice_response (s : State) (i : Fin 16) (v : Voice) : (setVoice s i v).response = s.response := rfl

/-! ## mapLive -/

@[simp] theorem mapLive_args (f : Voice → Voice) (s : State) : (mapLive f s).args = s.args := by simp only [mapLive]
@[simp] theorem mapLive_cmd (f : Voice → Voice) (s : State) : (mapLive f s).cmd = s.cmd := by simp only [mapLive]
@[simp] theorem mapLive_prepared (f : Voice → Voice) (s : State) : (mapLive f s).prepared = s.prepared := by simp only [mapLive]
@[simp] theorem mapLive_error (f : Voice → Voice) (s : State) : (mapLive f s).error = s.error := by simp only [mapLive]
@[simp] theorem mapLive_result (f : Voice → Voice) (s : State) : (mapLive f s).result = s.result := by simp only [mapLive]
@[simp] theorem mapLive_rdata (f : Voice → Voice) (s : State) : (mapLive f s).rdata = s.rdata := by simp only [mapLive]
@[simp] theorem mapLive_sampleRate (f : Voice → Voice) (s : State) : (mapLive f s).sampleRate = s.sampleRate := by simp only [mapLive]
@[simp] theorem mapLive_blockSize (f : Voice → Voice) (s : State) : (mapLive f s).blockSize = s.blockSize := by simp only [mapLive]
@[simp] theorem mapLive_maxVoicesCfg (f : Voice → Voice) (s : State) : (mapLive f s).maxVoicesCfg = s.maxVoicesCfg := by simp only [mapLive]
@[simp] theorem mapLive_params (f : Voice → Voice) (s : State) : (mapLive f s).params = s.params := by simp only [mapLive]
@[simp] theorem mapLive_delay (f : Voice → Voice) (s : State) : (mapLive f s).delay = s.delay := by simp only [mapLive]
@[simp] theorem mapLive_wgFund (f : Voice → Voice) (s : State) : (mapLive f s).wgFund = s.wgFund := by simp only [mapLive]
@[simp] theorem mapLive_rEff (f : Voice → Voice) (s : State) : (mapLive f s).rEff = s.rEff := by simp only [mapLive]
@[simp] theorem mapLive_rFast (f : Voice → Voice) (s : State) : (mapLive f s).rFast = s.rFast := by simp only [mapLive]
@[simp] theorem mapLive_ratio0 (f : Voice → Voice) (s : State) : (mapLive f s).ratio0 = s.ratio0 := by simp only [mapLive]
@[simp] theorem mapLive_ratio1 (f : Voice → Voice) (s : State) : (mapLive f s).ratio1 = s.ratio1 := by simp only [mapLive]
@[simp] theorem mapLive_queue (f : Voice → Voice) (s : State) : (mapLive f s).queue = s.queue := by simp only [mapLive]
@[simp] theorem mapLive_nextSeq (f : Voice → Voice) (s : State) : (mapLive f s).nextSeq = s.nextSeq := by simp only [mapLive]
@[simp] theorem mapLive_triggerCounter (f : Voice → Voice) (s : State) : (mapLive f s).triggerCounter = s.triggerCounter := by simp only [mapLive]
@[simp] theorem mapLive_sampleCount (f : Voice → Voice) (s : State) : (mapLive f s).sampleCount = s.sampleCount := by simp only [mapLive]
@[simp] theorem mapLive_clipCount (f : Voice → Voice) (s : State) : (mapLive f s).clipCount = s.clipCount := by simp only [mapLive]
@[simp] theorem mapLive_mem (f : Voice → Voice) (s : State) : (mapLive f s).mem = s.mem := by simp only [mapLive]
@[simp] theorem mapLive_pending (f : Voice → Voice) (s : State) : (mapLive f s).pending = s.pending := by simp only [mapLive]
@[simp] theorem mapLive_response (f : Voice → Voice) (s : State) : (mapLive f s).response = s.response := by simp only [mapLive]

/-! ## endCommand -/

@[simp] theorem endCommand_args (s : State) (c : ResultCode) : (endCommand s c).args = s.args := rfl
@[simp] theorem endCommand_cmd (s : State) (c : ResultCode) : (endCommand s c).cmd = s.cmd := rfl
@[simp] theorem endCommand_prepared (s : State) (c : ResultCode) : (endCommand s c).prepared = s.prepared := rfl
@[simp] theorem endCommand_error (s : State) (c : ResultCode) : (endCommand s c).error = s.error ||| errorBit c := rfl
@[simp] theorem endCommand_result (s : State) (c : ResultCode) : (endCommand s c).result = c := rfl
@[simp] theorem endCommand_rdata (s : State) (c : ResultCode) : (endCommand s c).rdata = s.rdata := rfl
@[simp] theorem endCommand_sampleRate (s : State) (c : ResultCode) : (endCommand s c).sampleRate = s.sampleRate := rfl
@[simp] theorem endCommand_blockSize (s : State) (c : ResultCode) : (endCommand s c).blockSize = s.blockSize := rfl
@[simp] theorem endCommand_maxVoicesCfg (s : State) (c : ResultCode) : (endCommand s c).maxVoicesCfg = s.maxVoicesCfg := rfl
@[simp] theorem endCommand_params (s : State) (c : ResultCode) : (endCommand s c).params = s.params := rfl
@[simp] theorem endCommand_delay (s : State) (c : ResultCode) : (endCommand s c).delay = s.delay := rfl
@[simp] theorem endCommand_wgFund (s : State) (c : ResultCode) : (endCommand s c).wgFund = s.wgFund := rfl
@[simp] theorem endCommand_rEff (s : State) (c : ResultCode) : (endCommand s c).rEff = s.rEff := rfl
@[simp] theorem endCommand_rFast (s : State) (c : ResultCode) : (endCommand s c).rFast = s.rFast := rfl
@[simp] theorem endCommand_ratio0 (s : State) (c : ResultCode) : (endCommand s c).ratio0 = s.ratio0 := rfl
@[simp] theorem endCommand_ratio1 (s : State) (c : ResultCode) : (endCommand s c).ratio1 = s.ratio1 := rfl
@[simp] theorem endCommand_voices (s : State) (c : ResultCode) : (endCommand s c).voices = s.voices := rfl
@[simp] theorem endCommand_queue (s : State) (c : ResultCode) : (endCommand s c).queue = s.queue := rfl
@[simp] theorem endCommand_nextSeq (s : State) (c : ResultCode) : (endCommand s c).nextSeq = s.nextSeq := rfl
@[simp] theorem endCommand_triggerCounter (s : State) (c : ResultCode) : (endCommand s c).triggerCounter = s.triggerCounter := rfl
@[simp] theorem endCommand_sampleCount (s : State) (c : ResultCode) : (endCommand s c).sampleCount = s.sampleCount := rfl
@[simp] theorem endCommand_clipCount (s : State) (c : ResultCode) : (endCommand s c).clipCount = s.clipCount := rfl
@[simp] theorem endCommand_mem (s : State) (c : ResultCode) : (endCommand s c).mem = s.mem := rfl
@[simp] theorem endCommand_pending (s : State) (c : ResultCode) : (endCommand s c).pending = s.pending := rfl
@[simp] theorem endCommand_response (s : State) (c : ResultCode) : (endCommand s c).response = s.response := rfl

/-! ## clearErrors -/

@[simp] theorem clearErrors_args (s : State) (w : Word) : (clearErrors s w).args = s.args := rfl
@[simp] theorem clearErrors_cmd (s : State) (w : Word) : (clearErrors s w).cmd = s.cmd := rfl
@[simp] theorem clearErrors_prepared (s : State) (w : Word) : (clearErrors s w).prepared = s.prepared := rfl
@[simp] theorem clearErrors_error (s : State) (w : Word) : (clearErrors s w).error = s.error &&& ~~~(w.truncate 8) := rfl
@[simp] theorem clearErrors_result (s : State) (w : Word) : (clearErrors s w).result = s.result := rfl
@[simp] theorem clearErrors_rdata (s : State) (w : Word) : (clearErrors s w).rdata = s.rdata := rfl
@[simp] theorem clearErrors_sampleRate (s : State) (w : Word) : (clearErrors s w).sampleRate = s.sampleRate := rfl
@[simp] theorem clearErrors_blockSize (s : State) (w : Word) : (clearErrors s w).blockSize = s.blockSize := rfl
@[simp] theorem clearErrors_maxVoicesCfg (s : State) (w : Word) : (clearErrors s w).maxVoicesCfg = s.maxVoicesCfg := rfl
@[simp] theorem clearErrors_params (s : State) (w : Word) : (clearErrors s w).params = s.params := rfl
@[simp] theorem clearErrors_delay (s : State) (w : Word) : (clearErrors s w).delay = s.delay := rfl
@[simp] theorem clearErrors_wgFund (s : State) (w : Word) : (clearErrors s w).wgFund = s.wgFund := rfl
@[simp] theorem clearErrors_rEff (s : State) (w : Word) : (clearErrors s w).rEff = s.rEff := rfl
@[simp] theorem clearErrors_rFast (s : State) (w : Word) : (clearErrors s w).rFast = s.rFast := rfl
@[simp] theorem clearErrors_ratio0 (s : State) (w : Word) : (clearErrors s w).ratio0 = s.ratio0 := rfl
@[simp] theorem clearErrors_ratio1 (s : State) (w : Word) : (clearErrors s w).ratio1 = s.ratio1 := rfl
@[simp] theorem clearErrors_voices (s : State) (w : Word) : (clearErrors s w).voices = s.voices := rfl
@[simp] theorem clearErrors_queue (s : State) (w : Word) : (clearErrors s w).queue = s.queue := rfl
@[simp] theorem clearErrors_nextSeq (s : State) (w : Word) : (clearErrors s w).nextSeq = s.nextSeq := rfl
@[simp] theorem clearErrors_triggerCounter (s : State) (w : Word) : (clearErrors s w).triggerCounter = s.triggerCounter := rfl
@[simp] theorem clearErrors_sampleCount (s : State) (w : Word) : (clearErrors s w).sampleCount = s.sampleCount := rfl
@[simp] theorem clearErrors_clipCount (s : State) (w : Word) : (clearErrors s w).clipCount = s.clipCount := rfl
@[simp] theorem clearErrors_mem (s : State) (w : Word) : (clearErrors s w).mem = s.mem := rfl
@[simp] theorem clearErrors_pending (s : State) (w : Word) : (clearErrors s w).pending = s.pending := rfl
@[simp] theorem clearErrors_response (s : State) (w : Word) : (clearErrors s w).response = s.response := rfl

/-! ## forceIdle -/

@[simp] theorem forceIdle_args (s : State) (i : Fin 16) : (forceIdle s i).args = s.args := rfl
@[simp] theorem forceIdle_cmd (s : State) (i : Fin 16) : (forceIdle s i).cmd = s.cmd := rfl
@[simp] theorem forceIdle_prepared (s : State) (i : Fin 16) : (forceIdle s i).prepared = s.prepared := rfl
@[simp] theorem forceIdle_error (s : State) (i : Fin 16) : (forceIdle s i).error = s.error := rfl
@[simp] theorem forceIdle_result (s : State) (i : Fin 16) : (forceIdle s i).result = s.result := rfl
@[simp] theorem forceIdle_rdata (s : State) (i : Fin 16) : (forceIdle s i).rdata = s.rdata := rfl
@[simp] theorem forceIdle_sampleRate (s : State) (i : Fin 16) : (forceIdle s i).sampleRate = s.sampleRate := rfl
@[simp] theorem forceIdle_blockSize (s : State) (i : Fin 16) : (forceIdle s i).blockSize = s.blockSize := rfl
@[simp] theorem forceIdle_maxVoicesCfg (s : State) (i : Fin 16) : (forceIdle s i).maxVoicesCfg = s.maxVoicesCfg := rfl
@[simp] theorem forceIdle_params (s : State) (i : Fin 16) : (forceIdle s i).params = s.params := rfl
@[simp] theorem forceIdle_delay (s : State) (i : Fin 16) : (forceIdle s i).delay = s.delay := rfl
@[simp] theorem forceIdle_wgFund (s : State) (i : Fin 16) : (forceIdle s i).wgFund = s.wgFund := rfl
@[simp] theorem forceIdle_rEff (s : State) (i : Fin 16) : (forceIdle s i).rEff = s.rEff := rfl
@[simp] theorem forceIdle_rFast (s : State) (i : Fin 16) : (forceIdle s i).rFast = s.rFast := rfl
@[simp] theorem forceIdle_ratio0 (s : State) (i : Fin 16) : (forceIdle s i).ratio0 = s.ratio0 := rfl
@[simp] theorem forceIdle_ratio1 (s : State) (i : Fin 16) : (forceIdle s i).ratio1 = s.ratio1 := rfl
@[simp] theorem forceIdle_voices (s : State) (i : Fin 16) : (forceIdle s i).voices = s.voices.set i { voice s i with state := .idle } := rfl
@[simp] theorem forceIdle_queue (s : State) (i : Fin 16) : (forceIdle s i).queue = s.queue := rfl
@[simp] theorem forceIdle_nextSeq (s : State) (i : Fin 16) : (forceIdle s i).nextSeq = s.nextSeq := rfl
@[simp] theorem forceIdle_triggerCounter (s : State) (i : Fin 16) : (forceIdle s i).triggerCounter = s.triggerCounter := rfl
@[simp] theorem forceIdle_sampleCount (s : State) (i : Fin 16) : (forceIdle s i).sampleCount = s.sampleCount := rfl
@[simp] theorem forceIdle_clipCount (s : State) (i : Fin 16) : (forceIdle s i).clipCount = s.clipCount := rfl
@[simp] theorem forceIdle_mem (s : State) (i : Fin 16) : (forceIdle s i).mem = s.mem := rfl
@[simp] theorem forceIdle_pending (s : State) (i : Fin 16) : (forceIdle s i).pending = s.pending := rfl
@[simp] theorem forceIdle_response (s : State) (i : Fin 16) : (forceIdle s i).response = s.response := rfl

/-! ## trigger -/

@[simp] theorem trigger_args (s : State) (i : Fin 16) (note : BitVec 7) (g : Gesture) : (trigger s i note g).args = s.args := rfl
@[simp] theorem trigger_cmd (s : State) (i : Fin 16) (note : BitVec 7) (g : Gesture) : (trigger s i note g).cmd = s.cmd := rfl
@[simp] theorem trigger_prepared (s : State) (i : Fin 16) (note : BitVec 7) (g : Gesture) : (trigger s i note g).prepared = s.prepared := rfl
@[simp] theorem trigger_error (s : State) (i : Fin 16) (note : BitVec 7) (g : Gesture) : (trigger s i note g).error = s.error := rfl
@[simp] theorem trigger_result (s : State) (i : Fin 16) (note : BitVec 7) (g : Gesture) : (trigger s i note g).result = s.result := rfl
@[simp] theorem trigger_rdata (s : State) (i : Fin 16) (note : BitVec 7) (g : Gesture) : (trigger s i note g).rdata = s.rdata := rfl
@[simp] theorem trigger_sampleRate (s : State) (i : Fin 16) (note : BitVec 7) (g : Gesture) : (trigger s i note g).sampleRate = s.sampleRate := rfl
@[simp] theorem trigger_blockSize (s : State) (i : Fin 16) (note : BitVec 7) (g : Gesture) : (trigger s i note g).blockSize = s.blockSize := rfl
@[simp] theorem trigger_maxVoicesCfg (s : State) (i : Fin 16) (note : BitVec 7) (g : Gesture) : (trigger s i note g).maxVoicesCfg = s.maxVoicesCfg := rfl
@[simp] theorem trigger_params (s : State) (i : Fin 16) (note : BitVec 7) (g : Gesture) : (trigger s i note g).params = s.params := rfl
@[simp] theorem trigger_delay (s : State) (i : Fin 16) (note : BitVec 7) (g : Gesture) : (trigger s i note g).delay = s.delay := rfl
@[simp] theorem trigger_wgFund (s : State) (i : Fin 16) (note : BitVec 7) (g : Gesture) : (trigger s i note g).wgFund = s.wgFund := rfl
@[simp] theorem trigger_rEff (s : State) (i : Fin 16) (note : BitVec 7) (g : Gesture) : (trigger s i note g).rEff = s.rEff := rfl
@[simp] theorem trigger_rFast (s : State) (i : Fin 16) (note : BitVec 7) (g : Gesture) : (trigger s i note g).rFast = s.rFast := rfl
@[simp] theorem trigger_ratio0 (s : State) (i : Fin 16) (note : BitVec 7) (g : Gesture) : (trigger s i note g).ratio0 = s.ratio0 := rfl
@[simp] theorem trigger_ratio1 (s : State) (i : Fin 16) (note : BitVec 7) (g : Gesture) : (trigger s i note g).ratio1 = s.ratio1 := rfl
@[simp] theorem trigger_voices (s : State) (i : Fin 16) (note : BitVec 7) (g : Gesture) : (trigger s i note g).voices = s.voices.set i (triggerVoice s note g s.triggerCounter (voice s i)) := rfl
@[simp] theorem trigger_queue (s : State) (i : Fin 16) (note : BitVec 7) (g : Gesture) : (trigger s i note g).queue = s.queue := rfl
@[simp] theorem trigger_nextSeq (s : State) (i : Fin 16) (note : BitVec 7) (g : Gesture) : (trigger s i note g).nextSeq = s.nextSeq := rfl
@[simp] theorem trigger_triggerCounter (s : State) (i : Fin 16) (note : BitVec 7) (g : Gesture) : (trigger s i note g).triggerCounter = s.triggerCounter + 1 := rfl
@[simp] theorem trigger_sampleCount (s : State) (i : Fin 16) (note : BitVec 7) (g : Gesture) : (trigger s i note g).sampleCount = s.sampleCount := rfl
@[simp] theorem trigger_clipCount (s : State) (i : Fin 16) (note : BitVec 7) (g : Gesture) : (trigger s i note g).clipCount = s.clipCount := rfl
@[simp] theorem trigger_mem (s : State) (i : Fin 16) (note : BitVec 7) (g : Gesture) : (trigger s i note g).mem = s.mem := rfl
@[simp] theorem trigger_pending (s : State) (i : Fin 16) (note : BitVec 7) (g : Gesture) : (trigger s i note g).pending = s.pending := rfl
@[simp] theorem trigger_response (s : State) (i : Fin 16) (note : BitVec 7) (g : Gesture) : (trigger s i note g).response = s.response := rfl

/-! ## noteOffExec -/

@[simp] theorem noteOffExec_args (s : State) (note : BitVec 7) (f : Bool) : (noteOffExec s note f).args = s.args := by simp only [noteOffExec, mapLive]
@[simp] theorem noteOffExec_cmd (s : State) (note : BitVec 7) (f : Bool) : (noteOffExec s note f).cmd = s.cmd := by simp only [noteOffExec, mapLive]
@[simp] theorem noteOffExec_prepared (s : State) (note : BitVec 7) (f : Bool) : (noteOffExec s note f).prepared = s.prepared := by simp only [noteOffExec, mapLive]
@[simp] theorem noteOffExec_error (s : State) (note : BitVec 7) (f : Bool) : (noteOffExec s note f).error = s.error := by simp only [noteOffExec, mapLive]
@[simp] theorem noteOffExec_result (s : State) (note : BitVec 7) (f : Bool) : (noteOffExec s note f).result = s.result := by simp only [noteOffExec, mapLive]
@[simp] theorem noteOffExec_rdata (s : State) (note : BitVec 7) (f : Bool) : (noteOffExec s note f).rdata = s.rdata := by simp only [noteOffExec, mapLive]
@[simp] theorem noteOffExec_sampleRate (s : State) (note : BitVec 7) (f : Bool) : (noteOffExec s note f).sampleRate = s.sampleRate := by simp only [noteOffExec, mapLive]
@[simp] theorem noteOffExec_blockSize (s : State) (note : BitVec 7) (f : Bool) : (noteOffExec s note f).blockSize = s.blockSize := by simp only [noteOffExec, mapLive]
@[simp] theorem noteOffExec_maxVoicesCfg (s : State) (note : BitVec 7) (f : Bool) : (noteOffExec s note f).maxVoicesCfg = s.maxVoicesCfg := by simp only [noteOffExec, mapLive]
@[simp] theorem noteOffExec_params (s : State) (note : BitVec 7) (f : Bool) : (noteOffExec s note f).params = s.params := by simp only [noteOffExec, mapLive]
@[simp] theorem noteOffExec_delay (s : State) (note : BitVec 7) (f : Bool) : (noteOffExec s note f).delay = s.delay := by simp only [noteOffExec, mapLive]
@[simp] theorem noteOffExec_wgFund (s : State) (note : BitVec 7) (f : Bool) : (noteOffExec s note f).wgFund = s.wgFund := by simp only [noteOffExec, mapLive]
@[simp] theorem noteOffExec_rEff (s : State) (note : BitVec 7) (f : Bool) : (noteOffExec s note f).rEff = s.rEff := by simp only [noteOffExec, mapLive]
@[simp] theorem noteOffExec_rFast (s : State) (note : BitVec 7) (f : Bool) : (noteOffExec s note f).rFast = s.rFast := by simp only [noteOffExec, mapLive]
@[simp] theorem noteOffExec_ratio0 (s : State) (note : BitVec 7) (f : Bool) : (noteOffExec s note f).ratio0 = s.ratio0 := by simp only [noteOffExec, mapLive]
@[simp] theorem noteOffExec_ratio1 (s : State) (note : BitVec 7) (f : Bool) : (noteOffExec s note f).ratio1 = s.ratio1 := by simp only [noteOffExec, mapLive]
@[simp] theorem noteOffExec_queue (s : State) (note : BitVec 7) (f : Bool) : (noteOffExec s note f).queue = s.queue := by simp only [noteOffExec, mapLive]
@[simp] theorem noteOffExec_nextSeq (s : State) (note : BitVec 7) (f : Bool) : (noteOffExec s note f).nextSeq = s.nextSeq := by simp only [noteOffExec, mapLive]
@[simp] theorem noteOffExec_triggerCounter (s : State) (note : BitVec 7) (f : Bool) : (noteOffExec s note f).triggerCounter = s.triggerCounter := by simp only [noteOffExec, mapLive]
@[simp] theorem noteOffExec_sampleCount (s : State) (note : BitVec 7) (f : Bool) : (noteOffExec s note f).sampleCount = s.sampleCount := by simp only [noteOffExec, mapLive]
@[simp] theorem noteOffExec_clipCount (s : State) (note : BitVec 7) (f : Bool) : (noteOffExec s note f).clipCount = s.clipCount := by simp only [noteOffExec, mapLive]
@[simp] theorem noteOffExec_mem (s : State) (note : BitVec 7) (f : Bool) : (noteOffExec s note f).mem = s.mem := by simp only [noteOffExec, mapLive]
@[simp] theorem noteOffExec_pending (s : State) (note : BitVec 7) (f : Bool) : (noteOffExec s note f).pending = s.pending := by simp only [noteOffExec, mapLive]
@[simp] theorem noteOffExec_response (s : State) (note : BitVec 7) (f : Bool) : (noteOffExec s note f).response = s.response := by simp only [noteOffExec, mapLive]

/-! ## enqueue -/

@[simp] theorem enqueue_args (s : State) (k : EventKind) (note : BitVec 7) (ofs : BitVec 15) : (enqueue s k note ofs).args = s.args := rfl
@[simp] theorem enqueue_cmd (s : State) (k : EventKind) (note : BitVec 7) (ofs : BitVec 15) : (enqueue s k note ofs).cmd = s.cmd := rfl
@[simp] theorem enqueue_prepared (s : State) (k : EventKind) (note : BitVec 7) (ofs : BitVec 15) : (enqueue s k note ofs).prepared = s.prepared := rfl
@[simp] theorem enqueue_error (s : State) (k : EventKind) (note : BitVec 7) (ofs : BitVec 15) : (enqueue s k note ofs).error = s.error := rfl
@[simp] theorem enqueue_result (s : State) (k : EventKind) (note : BitVec 7) (ofs : BitVec 15) : (enqueue s k note ofs).result = s.result := rfl
@[simp] theorem enqueue_rdata (s : State) (k : EventKind) (note : BitVec 7) (ofs : BitVec 15) : (enqueue s k note ofs).rdata = s.rdata := rfl
@[simp] theorem enqueue_sampleRate (s : State) (k : EventKind) (note : BitVec 7) (ofs : BitVec 15) : (enqueue s k note ofs).sampleRate = s.sampleRate := rfl
@[simp] theorem enqueue_blockSize (s : State) (k : EventKind) (note : BitVec 7) (ofs : BitVec 15) : (enqueue s k note ofs).blockSize = s.blockSize := rfl
@[simp] theorem enqueue_maxVoicesCfg (s : State) (k : EventKind) (note : BitVec 7) (ofs : BitVec 15) : (enqueue s k note ofs).maxVoicesCfg = s.maxVoicesCfg := rfl
@[simp] theorem enqueue_params (s : State) (k : EventKind) (note : BitVec 7) (ofs : BitVec 15) : (enqueue s k note ofs).params = s.params := rfl
@[simp] theorem enqueue_delay (s : State) (k : EventKind) (note : BitVec 7) (ofs : BitVec 15) : (enqueue s k note ofs).delay = s.delay := rfl
@[simp] theorem enqueue_wgFund (s : State) (k : EventKind) (note : BitVec 7) (ofs : BitVec 15) : (enqueue s k note ofs).wgFund = s.wgFund := rfl
@[simp] theorem enqueue_rEff (s : State) (k : EventKind) (note : BitVec 7) (ofs : BitVec 15) : (enqueue s k note ofs).rEff = s.rEff := rfl
@[simp] theorem enqueue_rFast (s : State) (k : EventKind) (note : BitVec 7) (ofs : BitVec 15) : (enqueue s k note ofs).rFast = s.rFast := rfl
@[simp] theorem enqueue_ratio0 (s : State) (k : EventKind) (note : BitVec 7) (ofs : BitVec 15) : (enqueue s k note ofs).ratio0 = s.ratio0 := rfl
@[simp] theorem enqueue_ratio1 (s : State) (k : EventKind) (note : BitVec 7) (ofs : BitVec 15) : (enqueue s k note ofs).ratio1 = s.ratio1 := rfl
@[simp] theorem enqueue_voices (s : State) (k : EventKind) (note : BitVec 7) (ofs : BitVec 15) : (enqueue s k note ofs).voices = s.voices := rfl
@[simp] theorem enqueue_queue (s : State) (k : EventKind) (note : BitVec 7) (ofs : BitVec 15) : (enqueue s k note ofs).queue = insertEvent ⟨k, note, ofs, s.nextSeq⟩ s.queue := rfl
@[simp] theorem enqueue_nextSeq (s : State) (k : EventKind) (note : BitVec 7) (ofs : BitVec 15) : (enqueue s k note ofs).nextSeq = s.nextSeq + 1 := rfl
@[simp] theorem enqueue_triggerCounter (s : State) (k : EventKind) (note : BitVec 7) (ofs : BitVec 15) : (enqueue s k note ofs).triggerCounter = s.triggerCounter := rfl
@[simp] theorem enqueue_sampleCount (s : State) (k : EventKind) (note : BitVec 7) (ofs : BitVec 15) : (enqueue s k note ofs).sampleCount = s.sampleCount := rfl
@[simp] theorem enqueue_clipCount (s : State) (k : EventKind) (note : BitVec 7) (ofs : BitVec 15) : (enqueue s k note ofs).clipCount = s.clipCount := rfl
@[simp] theorem enqueue_mem (s : State) (k : EventKind) (note : BitVec 7) (ofs : BitVec 15) : (enqueue s k note ofs).mem = s.mem := rfl
@[simp] theorem enqueue_pending (s : State) (k : EventKind) (note : BitVec 7) (ofs : BitVec 15) : (enqueue s k note ofs).pending = s.pending := rfl
@[simp] theorem enqueue_response (s : State) (k : EventKind) (note : BitVec 7) (ofs : BitVec 15) : (enqueue s k note ofs).response = s.response := rfl

/-! ## carryOver -/

@[simp] theorem carryOver_args (n : Nat) (s : State) : (carryOver n s).args = s.args := rfl
@[simp] theorem carryOver_cmd (n : Nat) (s : State) : (carryOver n s).cmd = s.cmd := rfl
@[simp] theorem carryOver_prepared (n : Nat) (s : State) : (carryOver n s).prepared = s.prepared := rfl
@[simp] theorem carryOver_error (n : Nat) (s : State) : (carryOver n s).error = s.error := rfl
@[simp] theorem carryOver_result (n : Nat) (s : State) : (carryOver n s).result = s.result := rfl
@[simp] theorem carryOver_rdata (n : Nat) (s : State) : (carryOver n s).rdata = s.rdata := rfl
@[simp] theorem carryOver_sampleRate (n : Nat) (s : State) : (carryOver n s).sampleRate = s.sampleRate := rfl
@[simp] theorem carryOver_blockSize (n : Nat) (s : State) : (carryOver n s).blockSize = s.blockSize := rfl
@[simp] theorem carryOver_maxVoicesCfg (n : Nat) (s : State) : (carryOver n s).maxVoicesCfg = s.maxVoicesCfg := rfl
@[simp] theorem carryOver_params (n : Nat) (s : State) : (carryOver n s).params = s.params := rfl
@[simp] theorem carryOver_delay (n : Nat) (s : State) : (carryOver n s).delay = s.delay := rfl
@[simp] theorem carryOver_wgFund (n : Nat) (s : State) : (carryOver n s).wgFund = s.wgFund := rfl
@[simp] theorem carryOver_rEff (n : Nat) (s : State) : (carryOver n s).rEff = s.rEff := rfl
@[simp] theorem carryOver_rFast (n : Nat) (s : State) : (carryOver n s).rFast = s.rFast := rfl
@[simp] theorem carryOver_ratio0 (n : Nat) (s : State) : (carryOver n s).ratio0 = s.ratio0 := rfl
@[simp] theorem carryOver_ratio1 (n : Nat) (s : State) : (carryOver n s).ratio1 = s.ratio1 := rfl
@[simp] theorem carryOver_voices (n : Nat) (s : State) : (carryOver n s).voices = s.voices := rfl
@[simp] theorem carryOver_queue (n : Nat) (s : State) : (carryOver n s).queue = s.queue.map fun ev => { ev with offset := ev.offset - BitVec.ofNat 15 n } := rfl
@[simp] theorem carryOver_nextSeq (n : Nat) (s : State) : (carryOver n s).nextSeq = s.nextSeq := rfl
@[simp] theorem carryOver_triggerCounter (n : Nat) (s : State) : (carryOver n s).triggerCounter = s.triggerCounter := rfl
@[simp] theorem carryOver_sampleCount (n : Nat) (s : State) : (carryOver n s).sampleCount = s.sampleCount := rfl
@[simp] theorem carryOver_clipCount (n : Nat) (s : State) : (carryOver n s).clipCount = s.clipCount := rfl
@[simp] theorem carryOver_mem (n : Nat) (s : State) : (carryOver n s).mem = s.mem := rfl
@[simp] theorem carryOver_pending (n : Nat) (s : State) : (carryOver n s).pending = s.pending := rfl
@[simp] theorem carryOver_response (n : Nat) (s : State) : (carryOver n s).response = s.response := rfl

/-! ## prepareBase -/

@[simp] theorem prepareBase_args (v : BitVec 8) (b : BitVec 16) (fs : F32) (s : State) : (prepareBase v b fs s).args = s.args := rfl
@[simp] theorem prepareBase_cmd (v : BitVec 8) (b : BitVec 16) (fs : F32) (s : State) : (prepareBase v b fs s).cmd = s.cmd := rfl
@[simp] theorem prepareBase_prepared (v : BitVec 8) (b : BitVec 16) (fs : F32) (s : State) : (prepareBase v b fs s).prepared = true := rfl
@[simp] theorem prepareBase_error (v : BitVec 8) (b : BitVec 16) (fs : F32) (s : State) : (prepareBase v b fs s).error = s.error := rfl
@[simp] theorem prepareBase_result (v : BitVec 8) (b : BitVec 16) (fs : F32) (s : State) : (prepareBase v b fs s).result = s.result := rfl
@[simp] theorem prepareBase_rdata (v : BitVec 8) (b : BitVec 16) (fs : F32) (s : State) : (prepareBase v b fs s).rdata = s.rdata := rfl
@[simp] theorem prepareBase_sampleRate (v : BitVec 8) (b : BitVec 16) (fs : F32) (s : State) : (prepareBase v b fs s).sampleRate = fs := rfl
@[simp] theorem prepareBase_blockSize (v : BitVec 8) (b : BitVec 16) (fs : F32) (s : State) : (prepareBase v b fs s).blockSize = b.zeroExtend 32 := rfl
@[simp] theorem prepareBase_maxVoicesCfg (v : BitVec 8) (b : BitVec 16) (fs : F32) (s : State) : (prepareBase v b fs s).maxVoicesCfg = v.zeroExtend 32 := rfl
@[simp] theorem prepareBase_params (v : BitVec 8) (b : BitVec 16) (fs : F32) (s : State) : (prepareBase v b fs s).params = s.params := rfl
@[simp] theorem prepareBase_delay (v : BitVec 8) (b : BitVec 16) (fs : F32) (s : State) : (prepareBase v b fs s).delay = s.delay := rfl
@[simp] theorem prepareBase_wgFund (v : BitVec 8) (b : BitVec 16) (fs : F32) (s : State) : (prepareBase v b fs s).wgFund = s.wgFund := rfl
@[simp] theorem prepareBase_rEff (v : BitVec 8) (b : BitVec 16) (fs : F32) (s : State) : (prepareBase v b fs s).rEff = s.rEff := rfl
@[simp] theorem prepareBase_rFast (v : BitVec 8) (b : BitVec 16) (fs : F32) (s : State) : (prepareBase v b fs s).rFast = s.rFast := rfl
@[simp] theorem prepareBase_ratio0 (v : BitVec 8) (b : BitVec 16) (fs : F32) (s : State) : (prepareBase v b fs s).ratio0 = s.ratio0 := rfl
@[simp] theorem prepareBase_ratio1 (v : BitVec 8) (b : BitVec 16) (fs : F32) (s : State) : (prepareBase v b fs s).ratio1 = s.ratio1 := rfl
@[simp] theorem prepareBase_queue (v : BitVec 8) (b : BitVec 16) (fs : F32) (s : State) : (prepareBase v b fs s).queue = [] := rfl
@[simp] theorem prepareBase_nextSeq (v : BitVec 8) (b : BitVec 16) (fs : F32) (s : State) : (prepareBase v b fs s).nextSeq = 0 := rfl
@[simp] theorem prepareBase_triggerCounter (v : BitVec 8) (b : BitVec 16) (fs : F32) (s : State) : (prepareBase v b fs s).triggerCounter = 0 := rfl
@[simp] theorem prepareBase_sampleCount (v : BitVec 8) (b : BitVec 16) (fs : F32) (s : State) : (prepareBase v b fs s).sampleCount = 0 := rfl
@[simp] theorem prepareBase_clipCount (v : BitVec 8) (b : BitVec 16) (fs : F32) (s : State) : (prepareBase v b fs s).clipCount = 0 := rfl
@[simp] theorem prepareBase_mem (v : BitVec 8) (b : BitVec 16) (fs : F32) (s : State) : (prepareBase v b fs s).mem = clearOut s.mem := rfl
@[simp] theorem prepareBase_pending (v : BitVec 8) (b : BitVec 16) (fs : F32) (s : State) : (prepareBase v b fs s).pending = s.pending := rfl
@[simp] theorem prepareBase_response (v : BitVec 8) (b : BitVec 16) (fs : F32) (s : State) : (prepareBase v b fs s).response = s.response := rfl

/-! ## deriveGlobals -/

@[simp] theorem deriveGlobals_args (s : State) : (deriveGlobals s).args = s.args := by simp only [deriveGlobals]
@[simp] theorem deriveGlobals_cmd (s : State) : (deriveGlobals s).cmd = s.cmd := by simp only [deriveGlobals]
@[simp] theorem deriveGlobals_prepared (s : State) : (deriveGlobals s).prepared = s.prepared := by simp only [deriveGlobals]
@[simp] theorem deriveGlobals_error (s : State) : (deriveGlobals s).error = s.error := by simp only [deriveGlobals]
@[simp] theorem deriveGlobals_result (s : State) : (deriveGlobals s).result = s.result := by simp only [deriveGlobals]
@[simp] theorem deriveGlobals_rdata (s : State) : (deriveGlobals s).rdata = s.rdata := by simp only [deriveGlobals]
@[simp] theorem deriveGlobals_sampleRate (s : State) : (deriveGlobals s).sampleRate = s.sampleRate := by simp only [deriveGlobals]
@[simp] theorem deriveGlobals_blockSize (s : State) : (deriveGlobals s).blockSize = s.blockSize := by simp only [deriveGlobals]
@[simp] theorem deriveGlobals_maxVoicesCfg (s : State) : (deriveGlobals s).maxVoicesCfg = s.maxVoicesCfg := by simp only [deriveGlobals]
@[simp] theorem deriveGlobals_params (s : State) : (deriveGlobals s).params = s.params := by simp only [deriveGlobals]
@[simp] theorem deriveGlobals_delay (s : State) : (deriveGlobals s).delay = delayOf s := by simp only [deriveGlobals]
@[simp] theorem deriveGlobals_wgFund (s : State) : (deriveGlobals s).wgFund = wgFundOf s := by simp only [deriveGlobals]
@[simp] theorem deriveGlobals_rEff (s : State) : (deriveGlobals s).rEff = rEffOf s := by simp only [deriveGlobals]
@[simp] theorem deriveGlobals_rFast (s : State) : (deriveGlobals s).rFast = rFastOf s := by simp only [deriveGlobals]
@[simp] theorem deriveGlobals_ratio0 (s : State) : (deriveGlobals s).ratio0 = ratio0Of s := by simp only [deriveGlobals]
@[simp] theorem deriveGlobals_ratio1 (s : State) : (deriveGlobals s).ratio1 = ratio1Of s := by simp only [deriveGlobals]
@[simp] theorem deriveGlobals_voices (s : State) : (deriveGlobals s).voices = s.voices := by simp only [deriveGlobals]
@[simp] theorem deriveGlobals_queue (s : State) : (deriveGlobals s).queue = s.queue := by simp only [deriveGlobals]
@[simp] theorem deriveGlobals_nextSeq (s : State) : (deriveGlobals s).nextSeq = s.nextSeq := by simp only [deriveGlobals]
@[simp] theorem deriveGlobals_triggerCounter (s : State) : (deriveGlobals s).triggerCounter = s.triggerCounter := by simp only [deriveGlobals]
@[simp] theorem deriveGlobals_sampleCount (s : State) : (deriveGlobals s).sampleCount = s.sampleCount := by simp only [deriveGlobals]
@[simp] theorem deriveGlobals_clipCount (s : State) : (deriveGlobals s).clipCount = s.clipCount := by simp only [deriveGlobals]
@[simp] theorem deriveGlobals_mem (s : State) : (deriveGlobals s).mem = s.mem := by simp only [deriveGlobals]
@[simp] theorem deriveGlobals_pending (s : State) : (deriveGlobals s).pending = s.pending := by simp only [deriveGlobals]
@[simp] theorem deriveGlobals_response (s : State) : (deriveGlobals s).response = s.response := by simp only [deriveGlobals]

/-! ## hostRead -/

@[simp] theorem hostRead_args (addr : Word) (s : State) : (hostRead addr s).args = s.args := rfl
@[simp] theorem hostRead_cmd (addr : Word) (s : State) : (hostRead addr s).cmd = s.cmd := rfl
@[simp] theorem hostRead_prepared (addr : Word) (s : State) : (hostRead addr s).prepared = s.prepared := rfl
@[simp] theorem hostRead_error (addr : Word) (s : State) : (hostRead addr s).error = s.error := rfl
@[simp] theorem hostRead_result (addr : Word) (s : State) : (hostRead addr s).result = s.result := rfl
@[simp] theorem hostRead_rdata (addr : Word) (s : State) : (hostRead addr s).rdata = s.rdata := rfl
@[simp] theorem hostRead_sampleRate (addr : Word) (s : State) : (hostRead addr s).sampleRate = s.sampleRate := rfl
@[simp] theorem hostRead_blockSize (addr : Word) (s : State) : (hostRead addr s).blockSize = s.blockSize := rfl
@[simp] theorem hostRead_maxVoicesCfg (addr : Word) (s : State) : (hostRead addr s).maxVoicesCfg = s.maxVoicesCfg := rfl
@[simp] theorem hostRead_params (addr : Word) (s : State) : (hostRead addr s).params = s.params := rfl
@[simp] theorem hostRead_delay (addr : Word) (s : State) : (hostRead addr s).delay = s.delay := rfl
@[simp] theorem hostRead_wgFund (addr : Word) (s : State) : (hostRead addr s).wgFund = s.wgFund := rfl
@[simp] theorem hostRead_rEff (addr : Word) (s : State) : (hostRead addr s).rEff = s.rEff := rfl
@[simp] theorem hostRead_rFast (addr : Word) (s : State) : (hostRead addr s).rFast = s.rFast := rfl
@[simp] theorem hostRead_ratio0 (addr : Word) (s : State) : (hostRead addr s).ratio0 = s.ratio0 := rfl
@[simp] theorem hostRead_ratio1 (addr : Word) (s : State) : (hostRead addr s).ratio1 = s.ratio1 := rfl
@[simp] theorem hostRead_voices (addr : Word) (s : State) : (hostRead addr s).voices = s.voices := rfl
@[simp] theorem hostRead_queue (addr : Word) (s : State) : (hostRead addr s).queue = s.queue := rfl
@[simp] theorem hostRead_nextSeq (addr : Word) (s : State) : (hostRead addr s).nextSeq = s.nextSeq := rfl
@[simp] theorem hostRead_triggerCounter (addr : Word) (s : State) : (hostRead addr s).triggerCounter = s.triggerCounter := rfl
@[simp] theorem hostRead_sampleCount (addr : Word) (s : State) : (hostRead addr s).sampleCount = s.sampleCount := rfl
@[simp] theorem hostRead_clipCount (addr : Word) (s : State) : (hostRead addr s).clipCount = s.clipCount := rfl
@[simp] theorem hostRead_mem (addr : Word) (s : State) : (hostRead addr s).mem = s.mem := rfl
@[simp] theorem hostRead_pending (addr : Word) (s : State) : (hostRead addr s).pending = s.pending := rfl
@[simp] theorem hostRead_response (addr : Word) (s : State) : (hostRead addr s).response = some (busRead s addr.toNat) := rfl

/-! ## pendCommand -/

@[simp] theorem pendCommand_args (s : State) (w : Word) : (pendCommand s w).args = s.args := rfl
@[simp] theorem pendCommand_cmd (s : State) (w : Word) : (pendCommand s w).cmd = s.cmd := rfl
@[simp] theorem pendCommand_prepared (s : State) (w : Word) : (pendCommand s w).prepared = s.prepared := rfl
@[simp] theorem pendCommand_error (s : State) (w : Word) : (pendCommand s w).error = s.error := rfl
@[simp] theorem pendCommand_result (s : State) (w : Word) : (pendCommand s w).result = s.result := rfl
@[simp] theorem pendCommand_rdata (s : State) (w : Word) : (pendCommand s w).rdata = s.rdata := rfl
@[simp] theorem pendCommand_sampleRate (s : State) (w : Word) : (pendCommand s w).sampleRate = s.sampleRate := rfl
@[simp] theorem pendCommand_blockSize (s : State) (w : Word) : (pendCommand s w).blockSize = s.blockSize := rfl
@[simp] theorem pendCommand_maxVoicesCfg (s : State) (w : Word) : (pendCommand s w).maxVoicesCfg = s.maxVoicesCfg := rfl
@[simp] theorem pendCommand_params (s : State) (w : Word) : (pendCommand s w).params = s.params := rfl
@[simp] theorem pendCommand_delay (s : State) (w : Word) : (pendCommand s w).delay = s.delay := rfl
@[simp] theorem pendCommand_wgFund (s : State) (w : Word) : (pendCommand s w).wgFund = s.wgFund := rfl
@[simp] theorem pendCommand_rEff (s : State) (w : Word) : (pendCommand s w).rEff = s.rEff := rfl
@[simp] theorem pendCommand_rFast (s : State) (w : Word) : (pendCommand s w).rFast = s.rFast := rfl
@[simp] theorem pendCommand_ratio0 (s : State) (w : Word) : (pendCommand s w).ratio0 = s.ratio0 := rfl
@[simp] theorem pendCommand_ratio1 (s : State) (w : Word) : (pendCommand s w).ratio1 = s.ratio1 := rfl
@[simp] theorem pendCommand_voices (s : State) (w : Word) : (pendCommand s w).voices = s.voices := rfl
@[simp] theorem pendCommand_queue (s : State) (w : Word) : (pendCommand s w).queue = s.queue := rfl
@[simp] theorem pendCommand_nextSeq (s : State) (w : Word) : (pendCommand s w).nextSeq = s.nextSeq := rfl
@[simp] theorem pendCommand_triggerCounter (s : State) (w : Word) : (pendCommand s w).triggerCounter = s.triggerCounter := rfl
@[simp] theorem pendCommand_sampleCount (s : State) (w : Word) : (pendCommand s w).sampleCount = s.sampleCount := rfl
@[simp] theorem pendCommand_clipCount (s : State) (w : Word) : (pendCommand s w).clipCount = s.clipCount := rfl
@[simp] theorem pendCommand_mem (s : State) (w : Word) : (pendCommand s w).mem = s.mem := rfl
@[simp] theorem pendCommand_pending (s : State) (w : Word) : (pendCommand s w).pending = .write (BitVec.ofNat 32 cmdAddr) .word w :: s.pending := rfl
@[simp] theorem pendCommand_response (s : State) (w : Word) : (pendCommand s w).response = s.response := rfl

end Sys2Proof.Machine
end

