-- ==== Sys2Proof/Laws/Memory.lean ====
section
/-!
SUPPORT. The laws of the sparse stores and of the host memory: a read after a write, what a write leaves
alone, and that every operation keeps the canonical form and the address windows.
-/

namespace Sys2Proof.Machine

variable {w : Nat}

/-! ## Stores -/

theorem storeRead_of_absent (m : List (Nat × BitVec w)) (a : Nat) (h : ∀ c ∈ m, c.1 ≠ a) :
    storeRead m a = 0 := by
  induction m with
  | nil => rfl
  | cons c rest ih =>
    obtain ⟨k, u⟩ := c
    have hk : k ≠ a := h (k, u) (by simp)
    simp [storeRead, hk, ih fun d hd => h d (by simp [hd])]

theorem storeRead_insert_same (m : List (Nat × BitVec w)) (a : Nat) (v : BitVec w) (h : ∀ c ∈ m, c.1 ≠ a) :
    storeRead (storeInsert a v m) a = v := by
  induction m with
  | nil => simp [storeInsert, storeRead]
  | cons c rest ih =>
    obtain ⟨k, u⟩ := c
    have hk : k ≠ a := h (k, u) (by simp)
    by_cases hlt : a < k
    · simp [storeInsert, hlt, storeRead]
    · simp [storeInsert, hlt, storeRead, hk, ih fun d hd => h d (by simp [hd])]

theorem storeRead_insert_other (m : List (Nat × BitVec w)) (a b : Nat) (v : BitVec w) (h : a ≠ b) :
    storeRead (storeInsert a v m) b = storeRead m b := by
  induction m with
  | nil => simp [storeInsert, storeRead, h]
  | cons c rest ih =>
    obtain ⟨k, u⟩ := c
    by_cases hlt : a < k
    · simp [storeInsert, hlt, storeRead, h]
    · simp [storeInsert, hlt, storeRead, ih]

theorem storeRead_filter_of_true (m : List (Nat × BitVec w)) (p : Nat × BitVec w → Bool) (b : Nat)
    (h : ∀ v, p (b, v) = true) : storeRead (m.filter p) b = storeRead m b := by
  induction m with
  | nil => rfl
  | cons c rest ih =>
    obtain ⟨k, u⟩ := c
    by_cases hk : k = b
    · subst hk; simp [h u, storeRead]
    · by_cases hp : p (k, u) = true <;> simp [hp, storeRead, hk, ih]

theorem storeRead_filter_of_false (m : List (Nat × BitVec w)) (p : Nat × BitVec w → Bool) (b : Nat)
    (h : ∀ v, p (b, v) = false) : storeRead (m.filter p) b = 0 := by
  refine storeRead_of_absent _ _ fun c hc hcb => ?_
  obtain ⟨_, hp⟩ := List.mem_filter.mp hc
  obtain ⟨k, u⟩ := c
  simp only at hcb
  subst hcb
  simp [h u] at hp

/-- A read after a write at the same key. -/
@[simp] theorem storeRead_write_same (m : List (Nat × BitVec w)) (a : Nat) (v : BitVec w) :
    storeRead (storeWrite m a v) a = v := by
  unfold storeWrite
  by_cases hv : v = 0
  · simp only [hv, if_true]
    exact storeRead_filter_of_false _ _ _ (by simp)
  · simp only [hv, if_false]
    exact storeRead_insert_same _ _ _ (by simp)

/-- A write leaves every other key alone. -/
theorem storeRead_write_other (m : List (Nat × BitVec w)) (a b : Nat) (v : BitVec w) (h : a ≠ b) :
    storeRead (storeWrite m a v) b = storeRead m b := by
  have hf : storeRead (m.filter fun c => c.1 != a) b = storeRead m b :=
    storeRead_filter_of_true _ _ _ (by simp [Ne.symm h])
  unfold storeWrite
  by_cases hv : v = 0
  · simp only [hv, if_true, hf]
  · simp only [hv, if_false]
    rw [storeRead_insert_other _ _ _ _ h, hf]

theorem mem_storeInsert (m : List (Nat × BitVec w)) (a : Nat) (v : BitVec w) (c : Nat × BitVec w) :
    c ∈ storeInsert a v m ↔ c = (a, v) ∨ c ∈ m := by
  induction m with
  | nil => simp [storeInsert]
  | cons d rest ih =>
    obtain ⟨k, u⟩ := d
    by_cases hlt : a < k
    · simp [storeInsert, hlt]
    · simp only [storeInsert, hlt, if_false, List.mem_cons, ih]
      tauto

theorem pairwise_storeInsert (m : List (Nat × BitVec w)) (a : Nat) (v : BitVec w)
    (hm : m.Pairwise fun c d => c.1 < d.1) (ha : ∀ c ∈ m, c.1 ≠ a) :
    (storeInsert a v m).Pairwise fun c d => c.1 < d.1 := by
  induction m with
  | nil => simp [storeInsert]
  | cons d rest ih =>
    obtain ⟨k, u⟩ := d
    obtain ⟨hk, hr⟩ := List.pairwise_cons.mp hm
    have hka : k ≠ a := ha (k, u) (by simp)
    by_cases hlt : a < k
    · simp only [storeInsert, hlt, if_true]
      refine List.pairwise_cons.mpr ⟨fun c hc => ?_, hm⟩
      rcases List.mem_cons.mp hc with rfl | hc
      · exact hlt
      · exact lt_trans hlt (hk c hc)
    · simp only [storeInsert, hlt, if_false]
      refine List.pairwise_cons.mpr ⟨fun c hc => ?_, ih hr fun c hc => ha c (by simp [hc])⟩
      rcases (mem_storeInsert _ _ _ _).mp hc with rfl | hc
      · exact lt_of_le_of_ne (not_lt.mp hlt) hka
      · exact hk c hc

/-- An entry after a write is the one written or an entry from before. -/
theorem mem_storeWrite (m : List (Nat × BitVec w)) (a : Nat) (v : BitVec w) (c : Nat × BitVec w)
    (h : c ∈ storeWrite m a v) : c = (a, v) ∨ c ∈ m := by
  unfold storeWrite at h
  by_cases hv : v = 0
  · simp only [hv, if_true] at h
    exact .inr (List.mem_filter.mp h).1
  · simp only [hv, if_false, mem_storeInsert] at h
    exact h.imp_right fun h => (List.mem_filter.mp h).1

/-- A write keeps the canonical form. -/
theorem storeWf_storeWrite (m : List (Nat × BitVec w)) (a : Nat) (v : BitVec w) (h : storeWf m) :
    storeWf (storeWrite m a v) := by
  have hf : (m.filter fun c => c.1 != a).Pairwise fun c d => c.1 < d.1 := h.1.filter _
  constructor
  · unfold storeWrite
    by_cases hv : v = 0
    · simpa only [hv, if_true] using hf
    · simp only [hv, if_false]
      exact pairwise_storeInsert _ _ _ hf (by simp)
  · intro c hc
    by_cases hv : v = 0
    · unfold storeWrite at hc
      simp only [hv, if_true] at hc
      exact h.2 c (List.mem_filter.mp hc).1
    · rcases mem_storeWrite _ _ _ _ hc with rfl | hc
      · exact hv
      · exact h.2 c hc

/-- Dropping entries keeps the canonical form. -/
theorem storeWf_filter (m : List (Nat × BitVec w)) (p : Nat × BitVec w → Bool) (h : storeWf m) :
    storeWf (m.filter p) :=
  ⟨h.1.filter _, fun c hc => h.2 c (List.mem_filter.mp hc).1⟩

theorem storeWf_nil : storeWf ([] : List (Nat × BitVec w)) := by simp [storeWf]

/-! ## Words -/

/-- A word is the four bytes it is stored as. -/
@[simp] theorem wordOfBytes_byteOfWord (v : Word) :
    wordOfBytes (byteOfWord v 0) (byteOfWord v 1) (byteOfWord v 2) (byteOfWord v 3) = v := by
  apply BitVec.eq_of_toNat_eq
  simp only [wordOfBytes, byteOfWord, BitVec.toNat_append, BitVec.extractLsb'_toNat]
  have h := v.isLt
  simp only [Nat.shiftLeft_eq, Nat.shiftRight_eq_div_pow]
  have e1 : ∀ a b k : Nat, b < 2 ^ k → a * 2 ^ k ||| b = a * 2 ^ k + b := by
    intro a b k hb
    rw [← Nat.shiftLeft_eq, ← Nat.shiftLeft_add_eq_or_of_lt hb]
  rw [e1 _ _ 8 (by omega), e1 _ _ 8 (by omega), e1 _ _ 8 (by omega)]
  omega

/-- Each byte of a word read is the byte stored there. -/
theorem readByte_writeWord_inside (m : Memory) (a : Nat) (v : Word) (k : Nat) (hk : k < 4) :
    readByte (writeWord m a v) (a + k) = byteOfWord v k := by
  unfold writeWord readByte
  match k, hk with
  | 0, _ =>
    rw [storeRead_write_other _ _ _ _ (by omega), storeRead_write_other _ _ _ _ (by omega),
      storeRead_write_other _ _ _ _ (by omega)]
    simp
  | 1, _ =>
    rw [storeRead_write_other _ _ _ _ (by omega), storeRead_write_other _ _ _ _ (by omega)]
    simp
  | 2, _ =>
    rw [storeRead_write_other _ _ _ _ (by omega)]
    simp
  | 3, _ => simp

/-- A word store leaves every byte outside its four alone. -/
theorem readByte_writeWord_outside (m : Memory) (a b : Nat) (v : Word) (h : b < a ∨ a + 4 ≤ b) :
    readByte (writeWord m a v) b = readByte m b := by
  unfold writeWord readByte
  rw [storeRead_write_other _ _ _ _ (by omega), storeRead_write_other _ _ _ _ (by omega),
    storeRead_write_other _ _ _ _ (by omega), storeRead_write_other _ _ _ _ (by omega)]

/-- A word read after a word store at the same address. -/
@[simp] theorem readWord_writeWord_same (m : Memory) (a : Nat) (v : Word) :
    readWord (writeWord m a v) a = v := by
  have h := readByte_writeWord_inside m a v
  have h0 := h 0 (by omega)
  rw [Nat.add_zero] at h0
  rw [readWord, h0, h 1 (by omega), h 2 (by omega), h 3 (by omega), wordOfBytes_byteOfWord]

/-- A word store leaves every word that shares no byte with it alone. -/
theorem readWord_writeWord_disjoint (m : Memory) (a b : Nat) (v : Word) (h : b + 4 ≤ a ∨ a + 4 ≤ b) :
    readWord (writeWord m a v) b = readWord m b := by
  unfold readWord
  rw [readByte_writeWord_outside _ _ _ _ (by omega), readByte_writeWord_outside _ _ _ _ (by omega),
    readByte_writeWord_outside _ _ _ _ (by omega), readByte_writeWord_outside _ _ _ _ (by omega)]

/-- A word store keeps the canonical form. -/
theorem writeWord_wf (m : Memory) (a : Nat) (v : Word) (h : m.wf) : (writeWord m a v).wf :=
  storeWf_storeWrite _ _ _ (storeWf_storeWrite _ _ _ (storeWf_storeWrite _ _ _ (storeWf_storeWrite _ _ _ h)))

/-- The entries a word store adds lie in its four bytes. -/
theorem mem_writeWord (m : Memory) (a : Nat) (v : Word) (c : Host.Cell) (h : c ∈ writeWord m a v) :
    (a ≤ c.1 ∧ c.1 < a + 4) ∨ c ∈ m := by
  unfold writeWord at h
  rcases mem_storeWrite _ _ _ _ h with rfl | h
  · left; simp only; omega
  rcases mem_storeWrite _ _ _ _ h with rfl | h
  · left; simp only; omega
  rcases mem_storeWrite _ _ _ _ h with rfl | h
  · left; simp only; omega
  rcases mem_storeWrite _ _ _ _ h with rfl | h
  · left; simp only; omega
  exact .inr h

/-! ## Clearing OUT -/

theorem readByte_clearOut_inside (m : Memory) (a : Nat) (h1 : outBase ≤ a) (h2 : a < outEnd) :
    readByte (clearOut m) a = 0 :=
  storeRead_filter_of_false _ _ _ (by simp [h1, h2])

theorem readByte_clearOut_outside (m : Memory) (a : Nat) (h : a < outBase ∨ outEnd ≤ a) :
    readByte (clearOut m) a = readByte m a := by
  refine storeRead_filter_of_true _ _ _ fun v => ?_
  simp only [Bool.not_eq_true', Bool.and_eq_false_iff, decide_eq_false_iff_not]
  omega

theorem clearOut_wf (m : Memory) (h : m.wf) : (clearOut m).wf := storeWf_filter _ _ h

theorem clearOut_idem (m : Memory) : clearOut (clearOut m) = clearOut m := by
  simp [clearOut, List.filter_filter]

end Sys2Proof.Machine
end

