-- ==== Sys2Proof/Laws/Ops.lean ====
section
/-!
SUPPORT. The laws of the named register, parameter and voice operations, and what ending a command does.
-/

namespace Sys2Proof.Machine

/-! ## Parameters -/

theorem paramRank_injective {p q : Param} (h : paramRank p = paramRank q) : p = q := by
  cases p <;> cases q <;> first | rfl | exact absurd h (by decide)

@[simp] theorem param_setParam_same (s : State) (p : Param) (x : F32) : param (setParam s p x) p = x := by
  simp [param, setParam]

theorem param_setParam_other (s : State) (p q : Param) (x : F32) (h : p ≠ q) :
    param (setParam s p x) q = param s q := by
  have hr : (paramRank p).val ≠ (paramRank q).val := fun e => h (paramRank_injective (Fin.ext e))
  simp [param, setParam, hr]

theorem allParams_complete (p : Param) : p ∈ allParams := by cases p <;> decide

theorem paramOfId_id (p : Param) : paramOfId (paramRow p).id = some p := by cases p <;> decide

/-- An id stands for the parameter whose row it is. -/
theorem paramOfId_some {id : BitVec 8} {p : Param} (h : paramOfId id = some p) : (paramRow p).id = id := by
  have := List.find?_some h
  simpa using this

/-- Equal tables are equal value by value. -/
theorem params_ext {s t : State} (h : ∀ p, param s p = param t p) : s.params = t.params := by
  apply Vector.ext
  intro i hi
  have cover : ∀ j : Fin Config.paramCount, ∃ p, paramRank p = j := by
    intro j
    have : ∀ j : Fin Config.paramCount, allParams.any (fun p => paramRank p == j) = true := by decide
    obtain ⟨p, _, hp⟩ := List.any_eq_true.mp (this j)
    exact ⟨p, by simpa using hp⟩
  obtain ⟨p, hp⟩ := cover ⟨i, hi⟩
  have := h p
  simp only [param, hp] at this
  simpa using this

/-! ## Voice slots -/

@[simp] theorem voice_setVoice_same (s : State) (i : Fin 16) (v : Voice) : voice (setVoice s i v) i = v := by
  simp [voice, setVoice]

theorem voice_setVoice_other (s : State) (i j : Fin 16) (v : Voice) (h : i ≠ j) :
    voice (setVoice s i v) j = voice s j := by
  have hv : i.val ≠ j.val := fun e => h (Fin.ext e)
  simp [voice, setVoice, hv]

theorem voice_setVoice (s : State) (i j : Fin 16) (v : Voice) :
    voice (setVoice s i v) j = if i = j then v else voice s j := by
  by_cases h : i = j
  · subst h; simp
  · simp [h, voice_setVoice_other]

/-- What a live-slot update does to each slot. -/
theorem voice_mapLive (f : Voice → Voice) (s : State) (i : Fin 16) :
    voice (mapLive f s) i = if inUse s i && (voice s i).active then f (voice s i) else voice s i := by
  unfold mapLive
  simp [voice]

@[simp] theorem inUse_mapLive (f : Voice → Voice) (s : State) (i : Fin 16) : inUse (mapLive f s) i = inUse s i := by
  simp [inUse]

@[simp] theorem inUse_setVoice (s : State) (i j : Fin 16) (v : Voice) : inUse (setVoice s i v) j = inUse s j := rfl

theorem allSlots_complete (i : Fin 16) : i ∈ allSlots := by
  revert i; decide

/-- States with equal slots have equal voice tables. -/
theorem voices_ext {s t : State} (h : ∀ i, voice s i = voice t i) : s.voices = t.voices := by
  apply Vector.ext
  intro i hi
  simpa [voice] using h ⟨i, hi⟩

/-- A live-slot update changes nothing but the voice table. -/
theorem mapLive_frame (f : Voice → Voice) (s : State) :
    mapLive f s = { s with voices := (mapLive f s).voices } := by
  simp only [mapLive]

/-! ## Ending a command -/

@[simp] theorem errorBit_ok : errorBit .ok = 0 := by decide

@[simp] theorem finish_failed (s : State) (c : ResultCode) : finish s (.failed c) = endCommand s c := rfl

@[simp] theorem finish_done (s t : State) : finish s (.done t false) = endCommand t .ok := rfl

@[simp] theorem finish_clamped (s t : State) : finish s (.done t true) = endCommand t .valueClamped := rfl

/-- Everything the end of a command can do: the failing command changes RESULT and ERROR only, the other ends
its effect with OK or VALUE_CLAMPED. -/
theorem finish_cases (s : State) (r : CmdResult) :
    (∃ c, r = .failed c ∧ finish s r = endCommand s c) ∨
    (∃ t, r = .done t false ∧ finish s r = endCommand t .ok) ∨
    (∃ t, r = .done t true ∧ finish s r = endCommand t .valueClamped) := by
  match r with
  | .failed c => exact .inl ⟨c, rfl, rfl⟩
  | .done t false => exact .inr (.inl ⟨t, rfl, rfl⟩)
  | .done t true => exact .inr (.inr ⟨t, rfl, rfl⟩)

end Sys2Proof.Machine
end

