-- ==== Sys2Proof/Laws/Voice.lean ====
section
/-!
SUPPORT. What the derivations of a trigger read of the state: two states that agree there derive the same.
-/

namespace Sys2Proof.Machine

theorem attackCoeff_congr {s t : State} (g : Gesture) (h : s.sampleRate = t.sampleRate) :
    attackCoeff s g = attackCoeff t g := by simp only [attackCoeff, h]

theorem releaseCoeff_congr {s t : State} (g : Gesture) (h : s.sampleRate = t.sampleRate) :
    releaseCoeff s g = releaseCoeff t g := by simp only [releaseCoeff, h]

theorem excDerive_congr {s t : State} (g : Gesture) (f : F32) (x : Exciter) (hp : s.params = t.params)
    (h : s.sampleRate = t.sampleRate) : excDerive s g f x = excDerive t g f x := by
  simp only [excDerive, param, hp, h]

theorem wgTrigger_congr {s t : State} (a : F32) (hp : s.params = t.params) (h : s.rEff = t.rEff) :
    wgTrigger s a = wgTrigger t a := by simp only [wgTrigger, wgCoeffs, lossGain, param, hp, h]

theorem bellTrigger_congr {s t : State} (a : F32) (hp : s.params = t.params) (h : s.sampleRate = t.sampleRate) :
    bellTrigger s a = bellTrigger t a := by simp only [bellTrigger, bellCoeffs, bellCutoffEff, param, hp, h]

theorem hornProfile_congr {s t : State} (horn : Nat) (sec : Fin 4) (hp : s.params = t.params) :
    hornProfile s horn sec = hornProfile t horn sec := by
  simp only [hornProfile, param, hp]

theorem bankSecCoeff_congr {s t : State} (horn : Nat) (sec : Fin 4) (hp : s.params = t.params)
    (h : s.sampleRate = t.sampleRate) : bankSecCoeff s horn sec = bankSecCoeff t horn sec := by
  simp only [bankSecCoeff, hornProfile_congr horn sec hp, param, hp, h]

theorem fmtTrigger_congr {s t : State} (m : Formant) (hp : s.params = t.params)
    (h : s.sampleRate = t.sampleRate) : fmtTrigger s m = fmtTrigger t m := by
  have hh : hornIndex s = hornIndex t := by simp only [hornIndex, param, hp]
  simp only [fmtTrigger, bankLoad, hh, fun sec => bankSecCoeff_congr (hornIndex t) sec hp h]

theorem pllTrigger_congr {s t : State} (f : F32) (h : s.sampleRate = t.sampleRate) (h0 : s.ratio0 = t.ratio0)
    (h1 : s.ratio1 = t.ratio1) : pllTrigger s f = pllTrigger t f := by
  simp only [pllTrigger, h, h0, h1]

theorem triggerVoice_congr {s t : State} (note : BitVec 7) (g : Gesture) (n : BitVec 32) (v : Voice)
    (hp : s.params = t.params) (h : s.sampleRate = t.sampleRate) (hr : s.rEff = t.rEff) (h0 : s.ratio0 = t.ratio0)
    (h1 : s.ratio1 = t.ratio1) : triggerVoice s note g n v = triggerVoice t note g n v := by
  simp only [triggerVoice, attackCoeff_congr g h, releaseCoeff_congr g h, excDerive_congr g _ _ hp h,
    wgTrigger_congr _ hp hr, bellTrigger_congr _ hp h, fmtTrigger_congr _ hp h, pllTrigger_congr _ h h0 h1]

end Sys2Proof.Machine
end

