-- ==== Sys2Proof/Laws/Pool.lean ====
section
/-!
SUPPORT. The laws of the voice pool and the event queue: which slot an allocation takes, what a note-on and a
note-off change, and where an event is inserted (45_commands.md R271 to R282).
-/

namespace Sys2Proof.Machine

/-! ## Which slots are in which state -/

theorem mem_slotsIn (s : State) (st : VoiceState) (i : Fin 16) :
    i ∈ slotsIn s st ↔ inUse s i = true ∧ (voice s i).state = st := by
  simp [slotsIn, allSlots_complete]

theorem slotsIn_pairwise (s : State) (st : VoiceState) : (slotsIn s st).Pairwise (· < ·) :=
  List.Pairwise.filter _ (by decide)

/-- The lowest slot of a non-empty set is below every other one. -/
theorem slotsIn_head {s : State} {st : VoiceState} {i : Fin 16} {rest : List (Fin 16)}
    (h : slotsIn s st = i :: rest) :
    inUse s i = true ∧ (voice s i).state = st ∧
      ∀ j, inUse s j = true → (voice s j).state = st → i ≤ j := by
  have hi := (mem_slotsIn s st i).mp (by simp [h])
  refine ⟨hi.1, hi.2, fun j hu hs => ?_⟩
  have hj : j ∈ i :: rest := h ▸ (mem_slotsIn s st j).mpr ⟨hu, hs⟩
  rcases List.mem_cons.mp hj with rfl | hj
  · exact le_refl _
  · exact le_of_lt ((List.pairwise_cons.mp (h ▸ slotsIn_pairwise s st)).1 j hj)

/-! ## The oldest slot (45 R273) -/

theorem oldest_none (s : State) (l : List (Fin 16)) : oldest s l = none ↔ l = [] := by
  cases l with
  | nil => simp [oldest]
  | cons i rest =>
    simp only [oldest, reduceCtorEq, iff_false]
    cases oldest s rest with
    | none => simp
    | some j => by_cases h : age s i < age s j <;> simp [h]

/-- The oldest slot is one of the list, none of the list is older, and none before it is as old. -/
theorem oldest_some (s : State) (l : List (Fin 16)) (i : Fin 16) (h : oldest s l = some i) :
    i ∈ l ∧ (∀ j ∈ l, age s j ≤ age s i) := by
  induction l generalizing i with
  | nil => simp [oldest] at h
  | cons k rest ih =>
    simp only [oldest] at h
    cases hr : oldest s rest with
    | none =>
      rw [hr] at h
      have : rest = [] := (oldest_none s rest).mp hr
      simp at h
      subst h; subst this
      simp
    | some m =>
      rw [hr] at h
      obtain ⟨hm, hmax⟩ := ih m hr
      by_cases hlt : age s k < age s m
      · simp [hlt] at h
        subst h
        exact ⟨by simp [hm], fun j hj => (List.mem_cons.mp hj).elim (fun e => e ▸ le_of_lt hlt) (hmax j)⟩
      · simp [hlt] at h
        subst h
        exact ⟨by simp, fun j hj => (List.mem_cons.mp hj).elim (fun e => e ▸ le_refl _)
          fun hj => le_trans (hmax j hj) (not_lt.mp hlt)⟩

/-- In a list in index order, a slot as old as the oldest one has no lower index. -/
theorem oldest_lowest (s : State) (l : List (Fin 16)) (i : Fin 16) (hl : l.Pairwise (· < ·))
    (h : oldest s l = some i) : ∀ j ∈ l, age s j = age s i → i ≤ j := by
  induction l generalizing i with
  | nil => simp
  | cons k rest ih =>
    obtain ⟨hk, hrest⟩ := List.pairwise_cons.mp hl
    simp only [oldest] at h
    cases hr : oldest s rest with
    | none =>
      rw [hr] at h
      have : rest = [] := (oldest_none s rest).mp hr
      simp at h
      subst h; subst this
      simp
    | some m =>
      rw [hr] at h
      have hm := (oldest_some s rest m hr).1
      by_cases hlt : age s k < age s m
      · simp [hlt] at h
        subst h
        intro j hj he
        rcases List.mem_cons.mp hj with rfl | hj
        · omega
        · exact ih m hrest hr j hj he
      · simp [hlt] at h
        subst h
        intro j hj _
        rcases List.mem_cons.mp hj with rfl | hj
        · exact le_refl _
        · exact le_of_lt (hk j hj)

/-- The slot a steal takes: an oldest Releasing slot, or an oldest Sounding one where none is Releasing. -/
theorem stealSlot_cases {s : State} {i : Fin 16} (h : stealSlot s = some i) :
    oldest s (slotsIn s .releasing) = some i ∨
      (slotsIn s .releasing = [] ∧ oldest s (slotsIn s .sounding) = some i) := by
  unfold stealSlot at h
  cases hr : oldest s (slotsIn s .releasing) with
  | some j => rw [hr] at h; exact .inl (by simpa using h)
  | none => rw [hr] at h; exact .inr ⟨(oldest_none _ _).mp hr, by simpa using h⟩

theorem stealSlot_none {s : State} (h : stealSlot s = none) :
    slotsIn s .releasing = [] ∧ slotsIn s .sounding = [] := by
  unfold stealSlot at h
  cases hr : oldest s (slotsIn s .releasing) with
  | some j => rw [hr] at h; exact absurd h (by simp)
  | none => rw [hr] at h; exact ⟨(oldest_none _ _).mp hr, (oldest_none _ _).mp h⟩

/-! ## Allocation (45 R272) -/

/-- Everything an allocation can do: the lowest Idle slot in use, nothing changed; or, where none is Idle, the
stolen slot, forced Idle. -/
theorem alloc_cases {s t : State} {i : Fin 16} (h : alloc s = some (i, t)) :
    (∃ rest, slotsIn s .idle = i :: rest ∧ t = s) ∨
      (slotsIn s .idle = [] ∧ stealSlot s = some i ∧ t = forceIdle s i) := by
  unfold alloc at h
  cases hi : slotsIn s .idle with
  | cons k rest =>
    simp only [hi, Option.some.injEq, Prod.mk.injEq] at h
    obtain ⟨rfl, rfl⟩ := h
    exact .inl ⟨rest, rfl, rfl⟩
  | nil =>
    simp only [hi] at h
    cases hs : stealSlot s with
    | none => simp [hs] at h
    | some k =>
      simp only [hs, Option.some.injEq, Prod.mk.injEq] at h
      obtain ⟨rfl, rfl⟩ := h
      exact .inr ⟨rfl, rfl, rfl⟩

/-- An allocation finds no slot only where no slot is in use. -/
theorem alloc_none {s : State} (h : alloc s = none) (i : Fin 16) : inUse s i = false := by
  unfold alloc at h
  cases hi : slotsIn s .idle with
  | cons k rest => simp [hi] at h
  | nil =>
    simp only [hi] at h
    cases hs : stealSlot s with
    | some k => simp [hs] at h
    | none =>
      obtain ⟨h1, h2⟩ := stealSlot_none hs
      by_contra hu
      have hu : inUse s i = true := by simpa using hu
      cases hv : (voice s i).state with
      | idle => simpa [hi] using (mem_slotsIn s .idle i).mpr ⟨hu, hv⟩
      | sounding => simpa [h2] using (mem_slotsIn s .sounding i).mpr ⟨hu, hv⟩
      | releasing => simpa [h1] using (mem_slotsIn s .releasing i).mpr ⟨hu, hv⟩

theorem alloc_inUse {s t : State} {i : Fin 16} (h : alloc s = some (i, t)) : inUse s i = true := by
  rcases alloc_cases h with ⟨rest, hi, _⟩ | ⟨_, hs, _⟩
  · exact (slotsIn_head hi).1
  · rcases stealSlot_cases hs with ho | ⟨_, ho⟩
    · exact ((mem_slotsIn _ _ _).mp (oldest_some _ _ _ ho).1).1
    · exact ((mem_slotsIn _ _ _).mp (oldest_some _ _ _ ho).1).1

/-! ## Triggers and note-ons (44 R244, 45 R271) -/

theorem voice_trigger (s : State) (i j : Fin 16) (note : BitVec 7) (g : Gesture) :
    voice (trigger s i note g) j =
      if i = j then triggerVoice s note g s.triggerCounter (voice s i) else voice s j := by
  exact voice_setVoice s i j _

/-- A trigger reads no field that a steal changes. -/
theorem triggerVoice_forced (s : State) (i : Fin 16) (note : BitVec 7) (g : Gesture) (n : BitVec 32) (v : Voice)
    (st : VoiceState) :
    triggerVoice (forceIdle s i) note g n { v with state := st } = triggerVoice s note g n v :=
  triggerVoice_congr note g n v rfl rfl rfl rfl rfl

theorem trigger_forced (s : State) (i : Fin 16) (note : BitVec 7) (g : Gesture) :
    trigger (forceIdle s i) i note g = trigger s i note g := by
  have hv : voice (forceIdle s i) i = { voice s i with state := .idle } := voice_setVoice_same _ _ _
  unfold trigger
  rw [hv, triggerVoice_forced, forceIdle_triggerCounter]
  simp only [setVoice, forceIdle, Vector.set_set]

/-- A note-on is a trigger of the slot the allocation takes. -/
theorem noteOnExec_alloc {s t : State} {i : Fin 16} (note : BitVec 7) (g : Gesture) (h : alloc s = some (i, t)) :
    noteOnExec s note g = trigger s i note g := by
  unfold noteOnExec
  simp only [h]
  rcases alloc_cases h with ⟨_, _, rfl⟩ | ⟨_, _, rfl⟩
  · rfl
  · exact trigger_forced s i note g

/-- Everything a note-on can do: a trigger of a slot in use, or nothing where no slot is in use. -/
theorem noteOnExec_cases (s : State) (note : BitVec 7) (g : Gesture) :
    (∃ i t, alloc s = some (i, t) ∧ noteOnExec s note g = trigger s i note g) ∨
      (alloc s = none ∧ noteOnExec s note g = s) := by
  cases h : alloc s with
  | none => exact .inr ⟨rfl, by simp only [noteOnExec, h]⟩
  | some p =>
    obtain ⟨i, t⟩ := p
    exact .inl ⟨i, t, rfl, noteOnExec_alloc note g h⟩

/-- A trigger changes the voice table and TRIGGER_COUNTER only. -/
theorem trigger_frame (s : State) (i : Fin 16) (note : BitVec 7) (g : Gesture) :
    trigger s i note g =
      { s with voices := (trigger s i note g).voices, triggerCounter := s.triggerCounter + 1 } := by
  simp only [trigger, setVoice]

/-- A note-on changes the voice table and TRIGGER_COUNTER only. -/
theorem noteOnExec_frame (s : State) (note : BitVec 7) (g : Gesture) :
    ∃ vs n, noteOnExec s note g = { s with voices := vs, triggerCounter := n } := by
  rcases noteOnExec_cases s note g with ⟨i, t, _, h⟩ | ⟨_, h⟩
  · exact ⟨_, _, h.trans (trigger_frame s i note g)⟩
  · exact ⟨s.voices, s.triggerCounter, h⟩

/-! ## Note-offs (44 R246, 45 R278) -/

theorem voice_noteOffExec (s : State) (note : BitVec 7) (forceOff : Bool) (i : Fin 16) :
    voice (noteOffExec s note forceOff) i =
      if inUse s i = true ∧ (voice s i).active = true ∧ (voice s i).note = note
        then release forceOff (voice s i) else voice s i := by
  unfold noteOffExec
  rw [voice_mapLive]
  by_cases h1 : inUse s i = true <;> by_cases h2 : (voice s i).active = true <;>
    by_cases h3 : (voice s i).note = note <;> simp [h1, h2, h3]

/-- A note-off changes the voice table only. -/
theorem noteOffExec_frame (s : State) (note : BitVec 7) (forceOff : Bool) :
    noteOffExec s note forceOff = { s with voices := (noteOffExec s note forceOff).voices } :=
  mapLive_frame _ s

/-- A release changes the state and forceOff only, and leaves an active voice active. -/
theorem release_frame (forceOff : Bool) (v : Voice) :
    release forceOff v = { v with state := (release forceOff v).state, forceOff := (release forceOff v).forceOff } ∧
      (release forceOff v).active = v.active := by
  obtain ⟨st, _⟩ := v
  cases st <;> exact ⟨rfl, rfl⟩

/-! ## Events (45 R280, R283) -/

/-- An event applied changes the voice table and TRIGGER_COUNTER only. -/
theorem dispatchEvent_frame (s : State) (ev : Event) :
    ∃ vs n, dispatchEvent s ev = { s with voices := vs, triggerCounter := n } := by
  unfold dispatchEvent
  cases ev.kind with
  | noteOn g => exact noteOnExec_frame s ev.note g
  | noteOff f => exact ⟨_, s.triggerCounter, noteOffExec_frame s ev.note f⟩

/-- A note-on reads nothing of the queue. -/
theorem noteOnExec_withQueue (s : State) (q : List Event) (note : BitVec 7) (g : Gesture) :
    noteOnExec { s with queue := q } note g = { noteOnExec s note g with queue := q } := by
  have hs : ∀ st, slotsIn { s with queue := q } st = slotsIn s st := fun _ => rfl
  have ho : ∀ l, oldest { s with queue := q } l = oldest s l := by
    intro l
    induction l with
    | nil => rfl
    | cons i rest ih => simp only [oldest, ih]; rfl
  have hl : stealSlot { s with queue := q } = stealSlot s := by simp only [stealSlot, hs, ho]
  unfold noteOnExec alloc
  rw [hs, hl]
  cases slotsIn s .idle with
  | cons i rest => rfl
  | nil => cases stealSlot s <;> rfl

/-- An event applied reads nothing of the queue. -/
theorem dispatchEvent_withQueue (s : State) (q : List Event) (ev : Event) :
    dispatchEvent { s with queue := q } ev = { dispatchEvent s ev with queue := q } := by
  unfold dispatchEvent
  cases ev.kind with
  | noteOn g => exact noteOnExec_withQueue s q ev.note g
  | noteOff f => rfl

/-- In a queue ordered by offset, an event goes after those whose offset is at most its own. -/
theorem insertEvent_sorted (ev : Event) (q : List Event) (h : q.Pairwise fun a b => a.offset ≤ b.offset) :
    insertEvent ev q = q.filter (fun r => r.offset ≤ ev.offset) ++ ev :: q.filter (fun r => !(r.offset ≤ ev.offset)) := by
  induction q with
  | nil => simp [insertEvent]
  | cons r rest ih =>
    obtain ⟨hr, hrest⟩ := List.pairwise_cons.mp h
    by_cases hle : r.offset ≤ ev.offset
    · simp [insertEvent, hle, ih hrest]
    · have hnone : ∀ x ∈ rest, ¬ x.offset ≤ ev.offset := fun x hx hc => hle (BitVec.le_trans (hr x hx) hc)
      have h1 : rest.filter (fun r => decide (r.offset ≤ ev.offset)) = [] := by
        simpa [List.filter_eq_nil_iff] using hnone
      have h2 : rest.filter (fun r => !decide (r.offset ≤ ev.offset)) = rest := by
        simpa [List.filter_eq_self] using hnone
      have h3 : ((r :: rest).any fun r => decide (r.offset ≤ ev.offset)) = false := by
        simpa [hle] using hnone
      simp only [insertEvent, h3, Bool.false_eq_true, if_false, List.filter_cons, hle, decide_false, h1, h2,
        Bool.not_false, if_true, List.nil_append]

/-- An insertion adds the event to the queue's content and nothing else. -/
theorem insertEvent_perm (ev : Event) (q : List Event) : (insertEvent ev q).Perm (ev :: q) := by
  induction q with
  | nil => exact List.Perm.refl _
  | cons r rest ih =>
    unfold insertEvent
    split
    · exact (List.Perm.cons r ih).trans (List.Perm.swap ev r rest)
    · exact List.Perm.refl _

theorem insertEvent_length (ev : Event) (q : List Event) : (insertEvent ev q).length = q.length + 1 := by
  simpa using (insertEvent_perm ev q).length_eq

end Sys2Proof.Machine
end

