-- ==== Sys2Proof/Laws/Block.lean ====
section
/-!
SUPPORT. The laws of the block loop: what draining events, mixing the voices and one frame can change, and an
induction principle over the frames of a block (45_commands.md R283 to R287).
-/

namespace Sys2Proof.Machine

/-! ## Draining the events due (45 R283) -/

/-- Events drained change the voice table, the queue and TRIGGER_COUNTER only. -/
theorem drainDue_frame (n : Nat) (q : List Event) (s : State) :
    ∃ vs rest k, drainDue n q s = { s with voices := vs, queue := rest, triggerCounter := k } := by
  induction q generalizing s with
  | nil => exact ⟨_, _, _, rfl⟩
  | cons ev rest ih =>
    unfold drainDue
    split
    · obtain ⟨vs, k, hd⟩ := dispatchEvent_frame { s with queue := rest } ev
      obtain ⟨vs', rest', k', h⟩ := ih (dispatchEvent { s with queue := rest } ev)
      exact ⟨vs', rest', k', by rw [h, hd]⟩
    · exact ⟨_, _, _, rfl⟩

theorem dispatchEvent_queue (s : State) (ev : Event) : (dispatchEvent s ev).queue = s.queue := by
  obtain ⟨vs, k, h⟩ := dispatchEvent_frame s ev
  rw [h]

/-- The queue after a drain: the events at its front that are due are gone. -/
theorem drainDue_queue (n : Nat) (q : List Event) (s : State) (h : s.queue = q) :
    (drainDue n q s).queue = q.dropWhile fun ev => ev.offset.toNat = n := by
  induction q generalizing s with
  | nil => simpa [drainDue] using h
  | cons ev rest ih =>
    unfold drainDue
    by_cases hn : ev.offset.toNat = n
    · simp only [hn, if_true, List.dropWhile_cons, decide_true]
      exact ih _ (dispatchEvent_queue _ _)
    · simp only [hn, if_false, List.dropWhile_cons, decide_false, Bool.false_eq_true]
      exact h

/-- A property that every dispatched event keeps, whatever the queue, is kept by a drain. -/
theorem drainDue_keeps {P : State → Prop} (hd : ∀ s ev q, P s → P (dispatchEvent { s with queue := q } ev))
    (n : Nat) (q : List Event) (s : State) (h : P s) : P (drainDue n q s) := by
  induction q generalizing s with
  | nil => exact h
  | cons ev rest ih =>
    unfold drainDue
    split
    · exact ih _ (hd s ev rest h)
    · exact h

/-- Everything a drain does: the events at the front of the queue that are due are applied in queue order, and gone
from the queue (45 R283). -/
theorem drainDue_eq (n : Nat) (q : List Event) (s : State) (h : s.queue = q) :
    drainDue n q s = { (q.takeWhile fun ev => ev.offset.toNat = n).foldl dispatchEvent s with
      queue := q.dropWhile fun ev => ev.offset.toNat = n } := by
  induction q generalizing s with
  | nil => exact congrArg (fun q => { s with queue := q }) h
  | cons ev rest ih =>
    unfold drainDue
    by_cases hn : ev.offset.toNat = n
    · have hq : dispatchEvent { s with queue := rest } ev = { dispatchEvent s ev with queue := rest } :=
        dispatchEvent_withQueue s rest ev
      have hf : ∀ (l : List Event) (u : State) (p : List Event),
          l.foldl dispatchEvent { u with queue := p } = { l.foldl dispatchEvent u with queue := p } := by
        intro l
        induction l with
        | nil => intro u p; rfl
        | cons e l ihl => intro u p; rw [List.foldl_cons, dispatchEvent_withQueue, ihl]; rfl
      rw [if_pos hn, ih _ (dispatchEvent_queue _ _), hq, hf]
      rw [List.takeWhile_cons_of_pos (by simpa using hn), List.dropWhile_cons_of_pos (by simpa using hn)]
      rfl
    · rw [if_neg hn]
      rw [List.takeWhile_cons_of_neg (by simpa using hn), List.dropWhile_cons_of_neg (by simpa using hn), ← h]
      rfl

/-! ## Mixing (45 R284) -/

/-- What mixing one slot does to the state: nothing, or one voice step of that slot. -/
theorem mixSlot_cases (acc : F32 × State) (i : Fin 16) :
    (¬ (inUse acc.2 i = true ∧ (voice acc.2 i).active = true) ∧ mixSlot acc i = acc) ∨
      ((inUse acc.2 i = true ∧ (voice acc.2 i).active = true) ∧
        mixSlot acc i = (fadd acc.1 (voiceStep acc.2 (voice acc.2 i)).1,
          setVoice acc.2 i (voiceStep acc.2 (voice acc.2 i)).2)) := by
  by_cases h : inUse acc.2 i = true ∧ (voice acc.2 i).active = true
  · exact .inr ⟨h, by simp only [mixSlot, h.1, h.2, Bool.and_self, if_true]⟩
  · refine .inl ⟨h, ?_⟩
    have : (inUse acc.2 i && (voice acc.2 i).active) = false := by simpa using h
    simp only [mixSlot, this, Bool.false_eq_true, if_false]

/-- A property of states that a voice step of any slot keeps is kept by the mix. -/
theorem mixVoices_keeps {P : State → Prop}
    (hv : ∀ s i, P s → inUse s i = true → (voice s i).active = true → P (setVoice s i (voiceStep s (voice s i)).2))
    (s : State) (h : P s) : P (mixVoices s).2 := by
  unfold mixVoices
  suffices ∀ (l : List (Fin 16)) (acc : F32 × State), P acc.2 → P (l.foldl mixSlot acc).2 from this _ _ h
  intro l
  induction l with
  | nil => exact fun acc h => h
  | cons i rest ih =>
    intro acc h
    refine ih _ ?_
    rcases mixSlot_cases acc i with ⟨_, he⟩ | ⟨⟨hu, ha⟩, he⟩
    · rw [he]; exact h
    · rw [he]; exact hv _ _ h hu ha

/-- The mix changes the voice table only. -/
theorem mixVoices_frame (s : State) : ∃ vs, (mixVoices s).2 = { s with voices := vs } :=
  mixVoices_keeps (P := fun t => ∃ vs, t = { s with voices := vs })
    (fun t i ⟨vs, h⟩ _ _ => ⟨(setVoice t i (voiceStep t (voice t i)).2).voices, by rw [h]; rfl⟩) s ⟨s.voices, rfl⟩

/-- Everything mixing a list of slots does, the slots not yet mixed as in `s`: the samples of the live ones are added in
list order, and each live one is stepped, both from the state at the start. -/
theorem foldl_mixSlot (s : State) (l : List (Fin 16)) (hl : l.Nodup) (x : F32) (vs : Vector Voice Config.maxVoices)
    (hv : ∀ i ∈ l, voice { s with voices := vs } i = voice s i) :
    (l.foldl mixSlot (x, { s with voices := vs })).1 =
        l.foldl (fun sum i => if inUse s i && (voice s i).active then fadd sum (voiceStep s (voice s i)).1 else sum) x ∧
      ∀ i, voice (l.foldl mixSlot (x, { s with voices := vs })).2 i =
        if i ∈ l ∧ inUse s i = true ∧ (voice s i).active = true then (voiceStep s (voice s i)).2
        else voice { s with voices := vs } i := by
  induction l generalizing x vs with
  | nil => simp
  | cons i rest ih =>
    obtain ⟨hi, hrest⟩ := List.nodup_cons.mp hl
    have hvi := hv i (by simp)
    have other : ∀ j ∈ rest, i ≠ j := fun j hj e => hi (e ▸ hj)
    rw [List.foldl_cons, List.foldl_cons]
    by_cases h : inUse s i = true ∧ (voice s i).active = true
    · have hm : mixSlot (x, { s with voices := vs }) i = (fadd x (voiceStep s (voice s i)).1,
          { s with voices := vs.set i (voiceStep s (voice s i)).2 }) := by
        have hu : inUse { s with voices := vs } i = true := h.1
        simp only [mixSlot, hvi, hu, h.2, Bool.and_self, if_true]
        rfl
      have hset : ∀ j, voice { s with voices := vs.set i (voiceStep s (voice s i)).2 } j =
          if i = j then (voiceStep s (voice s i)).2 else voice { s with voices := vs } j := fun j =>
        voice_setVoice { s with voices := vs } i j _
      obtain ⟨h1, h2⟩ := ih hrest (fadd x (voiceStep s (voice s i)).1) (vs.set i (voiceStep s (voice s i)).2)
        fun j hj => by rw [hset, if_neg (other j hj)]; exact hv j (by simp [hj])
      rw [hm, h1, if_pos (by simp [h])]
      refine ⟨rfl, fun j => ?_⟩
      rw [h2, hset]
      by_cases hj : i = j
      · subst hj; simp [hi, h]
      · have hj' : ¬ j = i := fun e => hj e.symm
        simp [hj, hj']
    · have hm : mixSlot (x, { s with voices := vs }) i = (x, { s with voices := vs }) := by
        rcases mixSlot_cases (x, { s with voices := vs }) i with ⟨_, he⟩ | ⟨⟨hu, ha⟩, _⟩
        · exact he
        · exact absurd ⟨hu, hvi ▸ ha⟩ h
      obtain ⟨h1, h2⟩ := ih hrest x vs fun j hj => hv j (by simp [hj])
      rw [hm, h1, if_neg (by simpa using h)]
      refine ⟨rfl, fun j => ?_⟩
      rw [h2]
      by_cases hj : j = i
      · subst hj; simp [hi, h]
      · simp [hj]

/-- The mix: the samples of the live slots added in slot order from +0.0, each slot stepped from the state at the start
(45 R283, R284). -/
theorem mixVoices_sum (s : State) : (mixVoices s).1 = allSlots.foldl
    (fun sum i => if inUse s i && (voice s i).active then fadd sum (voiceStep s (voice s i)).1 else sum) Config.zero :=
  (foldl_mixSlot s allSlots (by decide) Config.zero s.voices fun _ _ => rfl).1

/-- A mix steps every live slot in use and no other (45 R284). -/
theorem voice_mixVoices (s : State) (i : Fin 16) : voice (mixVoices s).2 i =
    if inUse s i = true ∧ (voice s i).active = true then (voiceStep s (voice s i)).2 else voice s i := by
  have := (foldl_mixSlot s allSlots (by decide) Config.zero s.voices fun _ _ => rfl).2 i
  simp only [allSlots_complete, true_and] at this
  exact this

/-- With no live slot in use the mix is +0.0 and nothing is stepped (45 R284). -/
theorem mixVoices_silent (s : State) (h : ∀ i, inUse s i = true → (voice s i).active = false) :
    mixVoices s = (Config.zero, s) := by
  have step : ∀ i, mixSlot (Config.zero, s) i = (Config.zero, s) := by
    intro i
    rcases mixSlot_cases (Config.zero, s) i with ⟨_, he⟩ | ⟨⟨hu, ha⟩, _⟩
    · exact he
    · exact absurd ha (by simp [h i hu])
  unfold mixVoices
  suffices ∀ l : List (Fin 16), l.foldl mixSlot (Config.zero, s) = (Config.zero, s) from this _
  intro l
  induction l with
  | nil => rfl
  | cons i rest ih => rw [List.foldl_cons, step i, ih]

/-! ## Output (45 R285, R286) -/

/-- The bytes of a frame's words that are written: nothing else of memory changes. -/
theorem readByte_writeOut_outside (m : Memory) (channels n : Nat) (out : F32) (a : Nat)
    (h : ∀ c, c < channels → a < outAddr c n ∨ outAddr c n + 4 ≤ a) :
    readByte (writeOut m channels n out) a = readByte m a := by
  unfold writeOut
  induction channels with
  | zero => rfl
  | succ k ih =>
    rw [List.range_succ, List.foldl_append]
    simp only [List.foldl_cons, List.foldl_nil]
    rw [readByte_writeWord_outside _ _ _ _ (h k (Nat.lt_succ_self k))]
    exact ih fun c hc => h c (Nat.lt_succ_of_lt hc)

theorem readWord_congr {m m' : Memory} {a : Nat} (h : ∀ b, a ≤ b → b < a + 4 → readByte m' b = readByte m b) :
    readWord m' a = readWord m a := by
  unfold readWord
  rw [h a (by omega) (by omega), h (a + 1) (by omega) (by omega), h (a + 2) (by omega) (by omega),
    h (a + 3) (by omega) (by omega)]

/-- A frame's word of each channel written is the clamped sum. -/
theorem readWord_writeOut (m : Memory) (channels n : Nat) (out : F32) (c : Nat)
    (hc : c < channels) : readWord (writeOut m channels n out) (outAddr c n) = out := by
  induction channels with
  | zero => omega
  | succ k ih =>
    unfold writeOut
    rw [List.range_succ, List.foldl_append]
    simp only [List.foldl_cons, List.foldl_nil]
    by_cases hk : c = k
    · subst hk; exact readWord_writeWord_same _ _ _
    · rw [readWord_writeWord_disjoint _ _ _ _ (by unfold outAddr outStride; omega)]
      exact ih (by omega)

/-- A property of memories that writing a word of OUT keeps is kept by a frame's output. -/
theorem writeOut_keeps {P : Memory → Prop} (channels n : Nat) (out : F32)
    (hw : ∀ m c, c < channels → P m → P (writeWord m (outAddr c n) out)) (m : Memory) (h : P m) :
    P (writeOut m channels n out) := by
  unfold writeOut
  induction channels with
  | zero => exact h
  | succ k ih =>
    rw [List.range_succ, List.foldl_append]
    exact hw _ k (Nat.lt_succ_self k) (ih fun m c hc => hw m c (Nat.lt_succ_of_lt hc))

/-! ## One frame and a block of frames (45 R283) -/

/-- What a frame writes once its events have been applied. -/
theorem emitFrame_frame (channels n : Nat) (s : State) :
    ∃ vs, emitFrame channels n s =
      { s with voices := vs, clipCount := clipAfter s.clipCount (mixVoices s).1,
               mem := writeOut s.mem channels n (engineClamp (mixVoices s).1),
               sampleCount := s.sampleCount + 1 } := by
  obtain ⟨vs, hm⟩ := mixVoices_frame s
  exact ⟨vs, by unfold emitFrame; simp only [hm]⟩

/-- A frame leaves each slot as the mix leaves it. -/
theorem voice_emitFrame (channels n : Nat) (s : State) (i : Fin 16) :
    voice (emitFrame channels n s) i = voice (mixVoices s).2 i := by
  simp only [emitFrame, voice]

/-- A frame changes the voice table, the queue, the three counters and memory only. -/
theorem frame_frame (channels n : Nat) (s : State) :
    ∃ vs q k c m, frame channels s n =
      { s with voices := vs, queue := q, triggerCounter := k, clipCount := c, mem := m,
               sampleCount := s.sampleCount + 1 } := by
  obtain ⟨vs, q, k, hd⟩ := drainDue_frame n s.queue s
  obtain ⟨vs', he⟩ := emitFrame_frame channels n (drainDue n s.queue s)
  exact ⟨vs', q, k, _, _, by rw [frame, he, hd]⟩

/-- A frame does not change what it finds in the queue but for the events due. -/
theorem frame_queue (channels n : Nat) (s : State) :
    (frame channels s n).queue = s.queue.dropWhile fun ev => ev.offset.toNat = n := by
  obtain ⟨vs, he⟩ := emitFrame_frame channels n (drainDue n s.queue s)
  rw [frame, he]
  exact drainDue_queue n s.queue s rfl

theorem frames_zero (channels : Nat) (s : State) : frames channels 0 s = s := rfl

theorem frames_succ (channels n : Nat) (s : State) :
    frames channels (n + 1) s = frame channels (frames channels n s) n := by
  simp [frames, List.range_succ]

/-- The frames of a block, one after the other: a property that holds at its start and that frame n carries from
n to n + 1. -/
theorem frames_induction {P : Nat → State → Prop} (channels : Nat) (s : State) (h0 : P 0 s)
    (hs : ∀ n t, P n t → P (n + 1) (frame channels t n)) (n : Nat) : P n (frames channels n s) := by
  induction n with
  | zero => exact h0
  | succ k ih => rw [frames_succ]; exact hs k _ ih

/-- A block of frames changes the voice table, the queue, the counters and memory only, and counts its frames. -/
theorem frames_frame (channels n : Nat) (s : State) :
    ∃ vs q k c m, frames channels n s =
      { s with voices := vs, queue := q, triggerCounter := k, clipCount := c, mem := m,
               sampleCount := s.sampleCount + BitVec.ofNat 64 n } := by
  refine frames_induction (P := fun n t => ∃ vs q k c m, t =
      { s with voices := vs, queue := q, triggerCounter := k, clipCount := c, mem := m,
               sampleCount := s.sampleCount + BitVec.ofNat 64 n }) channels s
    ⟨s.voices, s.queue, s.triggerCounter, s.clipCount, s.mem, by simp⟩ ?_ n
  rintro n t ⟨vs, q, k, c, m, rfl⟩
  obtain ⟨vs', q', k', c', m', h⟩ := frame_frame channels n
    { s with voices := vs, queue := q, triggerCounter := k, clipCount := c, mem := m,
             sampleCount := s.sampleCount + BitVec.ofNat 64 n }
  refine ⟨vs', q', k', c', m', ?_⟩
  have e : BitVec.ofNat 64 (n + 1) = BitVec.ofNat 64 n + 1 := BitVec.ofNat_add n 1
  rw [h]
  simp only [e, BitVec.add_assoc]

/-- What a whole block changes. -/
theorem frameLoop_frame (channels n : Nat) (s : State) :
    ∃ vs q k c m, frameLoop channels n s =
      { s with voices := vs, queue := q, triggerCounter := k, clipCount := c, mem := m,
               sampleCount := s.sampleCount + BitVec.ofNat 64 n } := by
  obtain ⟨vs, q, k, c, m, h⟩ := frames_frame channels n s
  exact ⟨vs, _, k, c, m, by rw [frameLoop, h]; rfl⟩

end Sys2Proof.Machine
end

