-- ==== Sys2Proof/Laws/Recompute.lean ====
section
/-!
SUPPORT. The laws of the derived globals and of recomputation: what a parameter write may recompute
(45_commands.md R303), and what a preset commit leaves in the table (45 R301).
-/

namespace Sys2Proof.Machine

/-- A live-slot update that leaves every voice as it is leaves the state as it is. -/
theorem mapLive_id (s : State) : mapLive (fun v => v) s = s := by
  have h : (mapLive (fun v => v) s).voices = s.voices :=
    voices_ext fun i => by rw [voice_mapLive, ite_self]
  rw [mapLive_frame, h]

/-- Everything a recomputation can do: new derived globals, and one update of every live slot. -/
theorem recompute_cases (p : Param) (s : State) :
    ∃ d wf re r0 r1 f, recompute p s =
      mapLive f { s with delay := d, wgFund := wf, rEff := re, ratio0 := r0, ratio1 := r1 } := by
  cases p <;>
    simp only [recompute, recomputeExciters, recomputeLength, recomputeReflection, recomputeLoss, recomputeBanks,
      recomputeHorn, recomputeBells, recomputeRatio0, recomputeRatio1]
  case nonlinearity | chaosThreshold | sub1Mix | sub2Mix => exact ⟨_, _, _, _, _, _, (mapLive_id s).symm⟩
  all_goals exact ⟨_, _, _, _, _, _, rfl⟩

/-- A recomputation changes the derived globals and the voice table only. -/
theorem recompute_frame (p : Param) (s : State) :
    ∃ d wf re r0 r1 vs, recompute p s =
      { s with delay := d, wgFund := wf, rEff := re, ratio0 := r0, ratio1 := r1, voices := vs } := by
  obtain ⟨d, wf, re, r0, r1, f, h⟩ := recompute_cases p s
  exact ⟨d, wf, re, r0, r1, _, h.trans (mapLive_frame _ _)⟩

/-! ### What each row of 45 R303 writes -/

/-- The globals a recomputation derives, nothing else changed. -/
def globalUpdate (p : Param) (s : State) : State :=
  match p with
  | .lengthMeters => { s with delay := delayOf s, wgFund := wgFundOf s }
  | .reflectionCoeff | .flareFactor | .boreShape => { s with rEff := rEffOf s }
  | .sub1Num | .sub1Den => { s with ratio0 := ratio0Of s }
  | .sub2Num | .sub2Den => { s with ratio1 := ratio1Of s }
  | .lipTension | .mouthPressure | .growlAmount | .lipMass | .lipStiffness => s
  | .nonlinearity | .chaosThreshold | .sub1Mix | .sub2Mix | .lossPerMeter | .hornType | .bellCutoff => s
  | .brightness | .warmth | .metalness | .customFreq0 | .customFreq1 | .customFreq2 | .customFreq3 => s
  | .customGain0 | .customGain1 | .customGain2 | .customGain3 => s

/-- The update a recomputation makes in a live slot, from the table and the globals of `s`. -/
def slotUpdate (p : Param) (s : State) : Voice → Voice :=
  match p with
  | .lipTension | .mouthPressure | .growlAmount | .lipMass | .lipStiffness =>
    fun v => { v with exc := excDerive s v.g v.f v.exc }
  | .nonlinearity | .chaosThreshold | .sub1Mix | .sub2Mix => fun v => v
  | .lengthMeters | .reflectionCoeff | .flareFactor | .boreShape | .lossPerMeter => voiceWgCoeffs s
  | .brightness | .warmth | .metalness => voiceBankReload s
  | .customFreq0 | .customFreq1 | .customFreq2 | .customFreq3 => voiceBankReload s
  | .customGain0 | .customGain1 | .customGain2 | .customGain3 => voiceBankReload s
  | .hornType => hornSwitch s (hornIndex s)
  | .bellCutoff => voiceBellCoeffs s
  | .sub1Num | .sub1Den => relock0 s
  | .sub2Num | .sub2Den => relock1 s

/-- Everything a recomputation does: the globals of its row, then the update of its row in every live slot. -/
theorem recompute_eq (p : Param) (s : State) :
    recompute p s = mapLive (slotUpdate p (globalUpdate p s)) (globalUpdate p s) := by
  cases p <;>
    simp only [recompute, recomputeExciters, recomputeLength, recomputeReflection, recomputeLoss, recomputeBanks,
      recomputeHorn, recomputeBells, recomputeRatio0, recomputeRatio1, slotUpdate, globalUpdate, mapLive_id]

/-- The globals of a row leave the table, the configuration and the slots as they are. -/
theorem globalUpdate_frame (p : Param) (s : State) : ∃ d wf re r0 r1, globalUpdate p s =
    { s with delay := d, wgFund := wf, rEff := re, ratio0 := r0, ratio1 := r1 } := by
  cases p <;> exact ⟨_, _, _, _, _, rfl⟩

/-- What a recomputation does to each slot. -/
theorem voice_recompute (p : Param) (s : State) (i : Fin 16) : voice (recompute p s) i =
    if inUse s i && (voice s i).active then slotUpdate p (globalUpdate p s) (voice s i) else voice s i := by
  obtain ⟨d, wf, re, r0, r1, h⟩ := globalUpdate_frame p s
  rw [recompute_eq, voice_mapLive, h]
  rfl

/-- A recomputation leaves every slot that is not live as it was. -/
theorem voice_recompute_idle (p : Param) (s : State) (i : Fin 16)
    (h : (inUse s i && (voice s i).active) = false) : voice (recompute p s) i = voice s i := by
  obtain ⟨d, wf, re, r0, r1, f, he⟩ := recompute_cases p s
  rw [he, voice_mapLive]
  exact if_neg (by simpa [inUse, voice] using h)

/-- The derived globals are functions of the table and SAMPLE_RATE; deriving them changes nothing else. -/
theorem deriveGlobals_frame (s : State) :
    ∃ d wf re rf r0 r1, deriveGlobals s =
      { s with delay := d, wgFund := wf, rEff := re, rFast := rf, ratio0 := r0, ratio1 := r1 } :=
  ⟨delayOf s, wgFundOf s, rEffOf s, rFastOf s, ratio0Of s, ratio1Of s, by simp only [deriveGlobals]⟩

/-- A checked parameter write changes the table, the derived globals and the voice table only. -/
theorem storeParam_frame (p : Param) (x : F32) (s : State) :
    ∃ d wf re r0 r1 vs, storeParam p x s =
      { s with params := s.params.set (paramRank p) x, delay := d, wgFund := wf, rEff := re, ratio0 := r0,
               ratio1 := r1, voices := vs } := by
  unfold storeParam
  simp only
  split
  · obtain ⟨d, wf, re, r0, r1, vs, h⟩ := recompute_frame p (setParam s p x)
    exact ⟨d, wf, re, r0, r1, vs, h⟩
  · exact ⟨_, _, _, _, _, _, rfl⟩

/-! ## Loading a preset -/

/-- A fold of parameter writes changes the table only. -/
theorem foldl_setParam_frame (f : Param → F32) (l : List Param) (s : State) :
    ∃ ps, l.foldl (fun t p => setParam t p (f p)) s = { s with params := ps } := by
  induction l generalizing s with
  | nil => exact ⟨s.params, rfl⟩
  | cons q rest ih =>
    obtain ⟨ps, h⟩ := ih (setParam s q (f q))
    exact ⟨ps, h⟩

/-- A fold of parameter writes leaves in each listed parameter its value. -/
theorem param_foldl_setParam (f : Param → F32) (l : List Param) (s : State) (p : Param) :
    param (l.foldl (fun t p => setParam t p (f p)) s) p = if p ∈ l then f p else param s p := by
  induction l generalizing s with
  | nil => simp
  | cons q rest ih =>
    rw [List.foldl_cons, ih]
    by_cases hq : q = p
    · subst hq
      by_cases hm : q ∈ rest <;> simp [hm]
    · have hp : ¬ p = q := fun e => hq e.symm
      by_cases hm : p ∈ rest <;> simp [hm, hp, param_setParam_other _ _ _ _ hq]

/-- After a commit each parameter is its PRESET word, a zero as +0.0. -/
theorem param_commitPreset (s : State) (p : Param) : param (commitPreset s) p = fplusZero (presetWord s p) := by
  unfold commitPreset
  rw [param_foldl_setParam (fun p => fplusZero (presetWord s p)), if_pos (allParams_complete p)]

/-- A commit changes the table only. -/
theorem commitPreset_frame (s : State) : ∃ ps, commitPreset s = { s with params := ps } :=
  foldl_setParam_frame _ _ s

/-- Recomputing what changed touches the derived globals and the voice table only. -/
theorem recomputeChanged_frame (old s : State) :
    ∃ d wf re r0 r1 vs, recomputeChanged old s =
      { s with delay := d, wgFund := wf, rEff := re, ratio0 := r0, ratio1 := r1, voices := vs } := by
  unfold recomputeChanged
  suffices ∀ (l : List Param) (t : State),
      (∃ d wf re r0 r1 vs, t =
        { s with delay := d, wgFund := wf, rEff := re, ratio0 := r0, ratio1 := r1, voices := vs }) →
      ∃ d wf re r0 r1 vs, l.foldl (fun t p => if feq (param s p) (param old p) then t else recompute p t) t =
        { s with delay := d, wgFund := wf, rEff := re, ratio0 := r0, ratio1 := r1, voices := vs } from
    this _ _ ⟨_, _, _, _, _, _, rfl⟩
  intro l
  induction l with
  | nil => exact fun t h => h
  | cons p rest ih =>
    intro t ht
    rw [List.foldl_cons]
    by_cases hc : feq (param s p) (param old p) = true
    · rw [if_pos hc]; exact ih _ ht
    · rw [if_neg hc]
      refine ih _ ?_
      obtain ⟨d, wf, re, r0, r1, vs, rfl⟩ := ht
      obtain ⟨d', wf', re', r0', r1', vs', h⟩ := recompute_frame p
        { s with delay := d, wgFund := wf, rEff := re, ratio0 := r0, ratio1 := r1, voices := vs }
      exact ⟨d', wf', re', r0', r1', vs', h⟩

/-- With no value changed, nothing is recomputed. -/
theorem recomputeChanged_same (old s : State) (h : ∀ p, feq (param s p) (param old p) = true) :
    recomputeChanged old s = s := by
  unfold recomputeChanged
  suffices ∀ l : List Param,
      l.foldl (fun t p => if feq (param s p) (param old p) then t else recompute p t) s = s from this _
  intro l
  induction l with
  | nil => rfl
  | cons p rest ih => rw [List.foldl_cons, if_pos (h p), ih]

/-- A property that every recomputation keeps is kept by recomputing what changed. -/
theorem recomputeChanged_keeps {P : State → Prop} (hr : ∀ p s, P s → P (recompute p s)) (old s : State) (h : P s) :
    P (recomputeChanged old s) := by
  unfold recomputeChanged
  suffices ∀ (l : List Param) (t : State), P t →
      P (l.foldl (fun t p => if feq (param s p) (param old p) then t else recompute p t) t) from this _ _ h
  intro l
  induction l with
  | nil => exact fun t h => h
  | cons p rest ih =>
    intro t ht
    rw [List.foldl_cons]
    by_cases hc : feq (param s p) (param old p) = true
    · rw [if_pos hc]; exact ih _ ht
    · rw [if_neg hc]; exact ih _ (hr p t ht)

/-! ## Saving a preset -/

theorem readByte_writePreset_outside (m : Memory) (i : Nat) (l : List Word) (a : Nat)
    (h : a < presetAddr i ∨ presetAddr (i + l.length) ≤ a) :
    readByte (writePreset m i l) a = readByte m a := by
  induction l generalizing m i with
  | nil => rfl
  | cons w rest ih =>
    simp only [List.length_cons, presetAddr] at h
    unfold writePreset
    rw [ih _ _ (by unfold presetAddr; omega), readByte_writeWord_outside _ _ _ _ (by unfold presetAddr; omega)]

theorem readWord_writePreset (m : Memory) (i : Nat) (l : List Word) (k : Nat) (hk : k < l.length) :
    readWord (writePreset m i l) (presetAddr (i + k)) = l[k] := by
  induction l generalizing m i k with
  | nil => simp at hk
  | cons w rest ih =>
    unfold writePreset
    cases k with
    | zero =>
      have : ∀ b, presetAddr i ≤ b → b < presetAddr i + 4 →
          readByte (writePreset (writeWord m (presetAddr i) w) (i + 1) rest) b =
            readByte (writeWord m (presetAddr i) w) b := fun b h1 h2 =>
        readByte_writePreset_outside _ _ _ _ (.inl (by unfold presetAddr at *; omega))
      simp only [Nat.add_zero, List.getElem_cons_zero]
      unfold readWord
      rw [this _ (by omega) (by omega), this _ (by omega) (by omega), this _ (by omega) (by omega),
        this _ (by omega) (by omega)]
      exact readWord_writeWord_same m (presetAddr i) w
    | succ j =>
      have := ih (writeWord m (presetAddr i) w) (i + 1) j (by simpa using hk)
      simpa [Nat.add_assoc, Nat.add_comm 1 j] using this

/-- A property of memories that writing a word of PRESET keeps is kept by a preset image. -/
theorem writePreset_keeps {P : Memory → Prop} (n : Nat)
    (hw : ∀ m i w, i < n → P m → P (writeWord m (presetAddr i) w)) (m : Memory) (i : Nat) (l : List Word)
    (hl : i + l.length ≤ n) (h : P m) : P (writePreset m i l) := by
  induction l generalizing m i with
  | nil => exact h
  | cons w rest ih =>
    simp only [List.length_cons] at hl
    exact ih _ _ (by omega) (hw m i w (by omega) h)

theorem presetImage_length (s : State) : (presetImage s).length = 33 := by
  simp [presetImage, allParams]

theorem presetImage_param (s : State) (p : Param) (h : 2 + (paramRank p).val < (presetImage s).length) :
    (presetImage s)[2 + (paramRank p).val] = param s p := by
  cases p <;> rfl

end Sys2Proof.Machine
end

