-- ==== Sys2Proof/Laws/Exec.lean ====
section
/-!
SUPPORT. What a command, an act of the host and a step can do, said once: the rule each command runs, and the
inversion of execute, perform and step (45_commands.md R270, 20_memory.md R84 to R93).
-/

namespace Sys2Proof.Machine

/-! ## Commands -/

/-- The rule a command runs, before its end. -/
def run : Instr → State → CmdResult
  | .nop a b, s => runNop a b s
  | .prepare voices block, s => runPrepare voices block s
  | .process channels frames, s => runProcess channels frames s
  | .setParam a bHigh id, s => runSetParam a bHigh id s
  | .getParam a bHigh id, s => runGetParam a bHigh id s
  | .saveParams a b, s => runSaveParams a b s
  | .loadParams a b, s => runLoadParams a b s
  | .noteOn r note f ofs, s => runNoteOn r note f ofs s
  | .noteOff r note f ofs, s => runNoteOff r note f ofs s
  | .noteOnNow r note b, s => runNoteOnNow r note b s
  | .noteOffNow r note f rest, s => runNoteOffNow r note f rest s

/-- Every command ends its rule and answers a next state. -/
theorem exec_run (i : Instr) (s : State) : exec i s = .next (finish s (run i s)) := by
  cases i <;> rfl

theorem exec_next {i : Instr} {s t : State} (h : exec i s = .next t) : t = finish s (run i s) := by
  rw [exec_run] at h
  exact (Host.Outcome.next.inj h).symm

/-- A queueing command either finds the queue full or enqueues. -/
theorem tryEnqueue_cases (kind : EventKind) (note : BitVec 7) (ofs : BitVec 15) (clamped : Bool) (s : State) :
    (queueFull s = true ∧ tryEnqueue kind note ofs clamped s = .failed .eqFull) ∨
      (queueFull s = false ∧ tryEnqueue kind note ofs clamped s = .done (enqueue s kind note ofs) clamped) := by
  unfold tryEnqueue
  cases h : queueFull s
  · exact .inr ⟨rfl, rfl⟩
  · exact .inl ⟨rfl, rfl⟩

/-- The rule of each command, when it has its effect: which state it leaves and that the state is one of these. -/
theorem run_done {i : Instr} {s t : State} {c : Bool} (h : run i s = .done t c) :
    t = s ∨
    (∃ voices block, i = .prepare voices block ∧ t = deriveGlobals (prepareBase voices block (argValue s 0) s) ∧
      prepareFieldsOk voices block = true ∧ sampleRateOk (argValue s 0) = true) ∨
    (∃ channels n, i = .process channels n ∧ t = frameLoop channels.toNat n.toNat s ∧
      processFieldsOk channels n = true ∧ s.prepared = true ∧ n.toNat ≤ s.blockSize.toNat) ∨
    (∃ a b id p, i = .setParam a b id ∧ paramOfId id = some p ∧ fisNaN (argValue s 0) = false ∧
      t = storeParam p (paramCheck p (argValue s 0)).1 s) ∨
    (∃ a b id p, i = .getParam a b id ∧ t = { s with rdata := param s p }) ∨
    (∃ a b, i = .saveParams a b ∧ t = { s with mem := writePreset s.mem 0 (presetImage s) }) ∨
    (∃ a b, i = .loadParams a b ∧ presetOk s = true ∧
      (t = recomputeChanged s (commitPreset s) ∨ t = commitPreset s)) ∨
    (∃ kind note ofs, t = enqueue s kind note ofs ∧ queueFull s = false ∧ s.prepared = true ∧
      (∃ r f, i = .noteOn r note f ofs ∨ i = .noteOff r note f ofs)) ∨
    (∃ note g, t = noteOnExec s note g ∧ s.prepared = true ∧ ∃ r b, i = .noteOnNow r note b) ∨
    (∃ note f, t = noteOffExec s note f ∧ s.prepared = true ∧
      ((∃ r b, i = .noteOnNow r note b) ∨ ∃ r f rest, i = .noteOffNow r note f rest)) := by
  cases i with
  | nop a b =>
    simp only [run, runNop] at h
    split at h <;> simp_all
  | prepare voices block =>
    simp only [run, runPrepare] at h
    split at h
    · cases h
    · rename_i h1
      split at h
      · cases h
      · rename_i h2
        simp only [CmdResult.done.injEq] at h
        exact .inr (.inl ⟨voices, block, rfl, h.1.symm, by simpa using h1, by simpa using h2⟩)
  | process channels n =>
    simp only [run, runProcess] at h
    split at h
    · cases h
    · rename_i h1
      split at h
      · cases h
      · rename_i h2
        split at h
        · cases h
        · rename_i h3
          simp only [CmdResult.done.injEq] at h
          exact .inr (.inr (.inl ⟨channels, n, rfl, h.1.symm, by simpa using h1, by simpa using h2,
            not_lt.mp h3⟩))
  | setParam a b id =>
    simp only [run, runSetParam] at h
    split at h
    · cases h
    · split at h
      · cases h
      · rename_i p hp
        split at h
        · cases h
        · rename_i hn
          simp only [CmdResult.done.injEq] at h
          exact .inr (.inr (.inr (.inl ⟨a, b, id, p, rfl, hp, by simpa using hn, h.1.symm⟩)))
  | getParam a b id =>
    simp only [run, runGetParam] at h
    split at h
    · cases h
    · split at h
      · cases h
      · rename_i p hp
        simp only [CmdResult.done.injEq] at h
        exact .inr (.inr (.inr (.inr (.inl ⟨a, b, id, p, rfl, h.1.symm⟩))))
  | saveParams a b =>
    simp only [run, runSaveParams] at h
    split at h
    · cases h
    · simp only [CmdResult.done.injEq] at h
      exact .inr (.inr (.inr (.inr (.inr (.inl ⟨a, b, rfl, h.1.symm⟩)))))
  | loadParams a b =>
    simp only [run, runLoadParams] at h
    split at h
    · cases h
    · split at h
      · cases h
      · rename_i hok
        have hok : presetOk s = true := by simpa using hok
        split at h <;> simp only [CmdResult.done.injEq] at h
        · exact .inr (.inr (.inr (.inr (.inr (.inr (.inl ⟨a, b, rfl, hok, .inl h.1.symm⟩))))))
        · exact .inr (.inr (.inr (.inr (.inr (.inr (.inl ⟨a, b, rfl, hok, .inr h.1.symm⟩))))))
  | noteOn r note f ofs =>
    have key : ∀ kind cl, tryEnqueue kind note ofs cl s = .done t c → s.prepared = true →
        ∃ kind' note' ofs', t = enqueue s kind' note' ofs' ∧ queueFull s = false ∧ s.prepared = true ∧
          (∃ r' f', Instr.noteOn r note f ofs = .noteOn r' note' f' ofs' ∨
            Instr.noteOn r note f ofs = .noteOff r' note' f' ofs') := by
      intro kind cl he hp
      rcases tryEnqueue_cases kind note ofs cl s with ⟨_, h2⟩ | ⟨hq, h2⟩
      · rw [h2] at he; cases he
      · rw [h2] at he
        simp only [CmdResult.done.injEq] at he
        exact ⟨kind, note, ofs, he.1.symm, hq, hp, r, f, .inl rfl⟩
    simp only [run, runNoteOn] at h
    split at h
    · cases h
    · split at h
      · cases h
      · rename_i hp
        have hp : s.prepared = true := by simpa using hp
        split at h
        · cases h
        · exact .inr (.inr (.inr (.inr (.inr (.inr (.inr (.inl (key _ _ h hp))))))))
        · exact .inr (.inr (.inr (.inr (.inr (.inr (.inr (.inl (key _ _ h hp))))))))
  | noteOff r note f ofs =>
    simp only [run, runNoteOff] at h
    split at h
    · cases h
    · split at h
      · cases h
      · rename_i hp
        have hp : s.prepared = true := by simpa using hp
        rcases tryEnqueue_cases (.noteOff (f == 1)) note ofs false s with ⟨_, h2⟩ | ⟨hq, h2⟩
        · rw [h2] at h; cases h
        · rw [h2] at h
          simp only [CmdResult.done.injEq] at h
          exact .inr (.inr (.inr (.inr (.inr (.inr (.inr (.inl
            ⟨_, note, ofs, h.1.symm, hq, hp, r, f, .inr rfl⟩)))))))
  | noteOnNow r note b =>
    simp only [run, runNoteOnNow] at h
    split at h
    · cases h
    · split at h
      · cases h
      · rename_i hp
        have hp : s.prepared = true := by simpa using hp
        split at h
        · cases h
        · simp only [CmdResult.done.injEq] at h
          exact .inr (.inr (.inr (.inr (.inr (.inr (.inr (.inr (.inr
            ⟨note, false, h.1.symm, hp, .inl ⟨r, b, rfl⟩⟩))))))))
        · simp only [CmdResult.done.injEq] at h
          exact .inr (.inr (.inr (.inr (.inr (.inr (.inr (.inr (.inl
            ⟨note, _, h.1.symm, hp, r, b, rfl⟩))))))))
  | noteOffNow r note f rest =>
    simp only [run, runNoteOffNow] at h
    split at h
    · cases h
    · split at h
      · cases h
      · rename_i hp
        have hp : s.prepared = true := by simpa using hp
        simp only [CmdResult.done.injEq] at h
        exact .inr (.inr (.inr (.inr (.inr (.inr (.inr (.inr (.inr
          ⟨note, _, h.1.symm, hp, .inr ⟨r, f, rest, rfl⟩⟩))))))))

/-- What a command's end leaves: RESULT and ERROR apart, the state its rule left. -/
theorem exec_cases {i : Instr} {s t : State} (h : exec i s = .next t) :
    (∃ c, run i s = .failed c ∧ t = endCommand s c) ∨
      (∃ u b, run i s = .done u b ∧ t = endCommand u (if b then .valueClamped else .ok)) := by
  have h := exec_next h
  cases hr : run i s with
  | failed c => exact .inl ⟨c, rfl, by rw [h, hr]; rfl⟩
  | done u b => exact .inr ⟨u, b, rfl, by rw [h, hr]; cases b <;> rfl⟩

/-! ## Acts of the host -/

/-- EXECUTE stores the header and runs its command, or ends with BAD_OPCODE. -/
theorem execute_cases (w : Word) (s : State) :
    (∃ i, decode w = .ok i ∧ execute w s = exec i { s with cmd := w }) ∨
      (∃ e, decode w = .error e ∧ execute w s = .next (endCommand { s with cmd := w } .badOpcode)) := by
  unfold execute
  cases h : decode w with
  | ok i => exact .inl ⟨i, rfl, rfl⟩
  | error e => exact .inr ⟨e, rfl, rfl⟩

/-- Everything a write that is not to CMD can do to the core. -/
theorem busWrite_cases (s : State) (a : Nat) (w : Word) :
    busWrite s a w = s ∨ busWrite s a w = clearErrors s w ∨
      (∃ i : Fin 9, busWrite s a w = { s with args := s.args.set i w }) ∨
      (busWrite s a w = { s with cmd := w } ∧ regAt a = some .cmd) ∨
      (presetBase ≤ a ∧ a < presetEnd ∧ busWrite s a w = { s with mem := writeWord s.mem a w }) := by
  unfold busWrite
  cases hr : regionOf a with
  | registers =>
    cases ha : regAt a with
    | none => exact .inl rfl
    | some r =>
      cases r <;> first
        | exact .inl rfl
        | exact .inr (.inl rfl)
        | exact .inr (.inr (.inl ⟨_, rfl⟩))
        | exact .inr (.inr (.inr (.inl ⟨rfl, rfl⟩)))
  | out => exact .inl rfl
  | preset =>
    have : presetBase ≤ a ∧ a < presetEnd := by
      unfold regionOf at hr
      split at hr
      · cases hr
      · split at hr
        · cases hr
        · split at hr
          · assumption
          · cases hr
    exact .inr (.inr (.inr (.inr ⟨this.1, this.2, rfl⟩)))
  | unmapped => exact .inl rfl

/-- The one register at the address of CMD is CMD. -/
theorem regAt_cmd {a : Nat} (h : regAt a = some .cmd) : a = cmdAddr := by
  have := List.find?_some h
  have : (0x200 : Nat) = a := by simpa [regOffset] using this
  exact this.symm

/-- Everything a step can do: nothing, a fault of a bad access, a read, a store, a command, a reserved header
or a reset. -/
theorem step_cases (s : State) :
    (s.pending = [] ∧ step s = .next s) ∨
    (∃ act rest addr, s.pending = act :: rest ∧ step s = .fault (.busError addr)) ∨
    (∃ addr rest, s.pending = .read addr .word :: rest ∧ addr.toNat % 4 = 0 ∧
      step s = .next (hostRead addr { s with pending := rest })) ∨
    (∃ addr w rest, s.pending = .write addr .word w :: rest ∧ addr.toNat % 4 = 0 ∧ addr.toNat ≠ cmdAddr ∧
      step s = .next (busWrite { s with pending := rest } addr.toNat w)) ∨
    (∃ addr w rest i, s.pending = .write addr .word w :: rest ∧ addr.toNat = cmdAddr ∧ decode w = .ok i ∧
      step s = exec i { s with pending := rest, cmd := w }) ∨
    (∃ addr w rest e, s.pending = .write addr .word w :: rest ∧ addr.toNat = cmdAddr ∧ decode w = .error e ∧
      step s = .next (endCommand { s with pending := rest, cmd := w } .badOpcode)) ∨
    (∃ rest, s.pending = .reset :: rest ∧ step s = .next (hostReset { s with pending := rest })) := by
  have okW : ∀ addr width, accessOk addr width = true → width = .word ∧ addr.toNat % 4 = 0 := by
    intro addr width h
    simpa [accessOk] using h
  cases hp : s.pending with
  | nil => exact .inl ⟨rfl, by simp only [step, performNext, hp]⟩
  | cons act rest =>
    have hs : step s = perform act { s with pending := rest } := by simp only [step, performNext, hp]
    cases act with
    | read addr width =>
      by_cases hok : accessOk addr width = true
      · obtain ⟨rfl, h4⟩ := okW _ _ hok
        refine .inr (.inr (.inl ⟨addr, rest, rfl, h4, ?_⟩))
        rw [hs]; simp only [perform, hok, if_true]
      · refine .inr (.inl ⟨_, rest, addr, rfl, ?_⟩)
        rw [hs]; simp only [perform, hok]; rfl
    | write addr width w =>
      by_cases hok : accessOk addr width = true
      · obtain ⟨rfl, h4⟩ := okW _ _ hok
        have hw : step s = hostWrite addr w { s with pending := rest } := by
          rw [hs]; simp only [perform, hok, if_true]
        by_cases hc : addr.toNat = cmdAddr
        · have he : step s = execute w { s with pending := rest } := by
            rw [hw]; simp only [hostWrite, hc, if_true]
          rcases execute_cases w { s with pending := rest } with ⟨i, hd, hx⟩ | ⟨e, hd, hx⟩
          · exact .inr (.inr (.inr (.inr (.inl ⟨addr, w, rest, i, rfl, hc, hd, he.trans hx⟩))))
          · exact .inr (.inr (.inr (.inr (.inr (.inl ⟨addr, w, rest, e, rfl, hc, hd, he.trans hx⟩)))))
        · refine .inr (.inr (.inr (.inl ⟨addr, w, rest, rfl, h4, hc, ?_⟩)))
          rw [hw]; simp only [hostWrite, hc, if_false]
      · refine .inr (.inl ⟨_, rest, addr, rfl, ?_⟩)
        rw [hs]; simp only [perform, hok]; rfl
    | reset => exact .inr (.inr (.inr (.inr (.inr (.inr ⟨rest, rfl, hs⟩)))))

end Sys2Proof.Machine
end

