-- ==== Sys2Proof/Laws/Flags.lean ====
section
/-!
SUPPORT. What each bit of the introspection words says (10_state.md R51).
-/

namespace Sys2Proof.Machine

theorem zero_bit (k : Nat) : (0 : Word).getLsbD k = false := by simp

/-- A bit of ACTIVE_MASK built up over a list of slots. -/
theorem getLsbD_mask_foldl (s : State) (l : List (Fin 16)) (m : Word) (k : Nat) (hk : k < 32) :
    (l.foldl (fun m i => if (voice s i).active then m ||| BitVec.ofNat 32 (2 ^ i.val) else m) m).getLsbD k =
      (m.getLsbD k || l.any fun i => decide (i.val = k) && (voice s i).active) := by
  induction l generalizing m with
  | nil => simp
  | cons i rest ih =>
    rw [List.foldl_cons, ih, List.any_cons]
    by_cases ha : (voice s i).active = true
    · simp only [ha, if_true, BitVec.getLsbD_or, BitVec.getLsbD_ofNat, Nat.testBit_two_pow, hk, decide_true,
        Bool.true_and, Bool.and_true, Bool.or_assoc]
    · simp [ha]

/-- Bit i of ACTIVE_MASK says that slot i is not Idle (10 R51). -/
theorem activeMask_slot (s : State) (i : Fin 16) : (activeMask s).getLsbD i.val = (voice s i).active := by
  have := i.isLt
  rw [activeMask, getLsbD_mask_foldl _ _ _ _ (by omega), Bool.eq_iff_iff]
  simp only [zero_bit, Bool.false_or, List.any_eq_true, Bool.and_eq_true, decide_eq_true_eq]
  exact ⟨fun ⟨j, _, hj, ha⟩ => Fin.ext hj ▸ ha, fun ha => ⟨i, allSlots_complete i, rfl, ha⟩⟩

/-- The bits of ACTIVE_MASK above the slots are zero (10 R51). -/
theorem activeMask_above (s : State) (k : Nat) (hk : 16 ≤ k) : (activeMask s).getLsbD k = false := by
  by_cases h : k < 32
  · rw [activeMask, getLsbD_mask_foldl _ _ _ _ h, Bool.eq_false_iff]
    simp only [zero_bit, Bool.false_or, ne_eq, List.any_eq_true, Bool.and_eq_true, decide_eq_true_eq, not_exists,
      not_and]
    intro j _ hj
    have := j.isLt
    omega
  · exact BitVec.getLsbD_of_ge _ _ (by omega)

/-- A bit of VOICE_STATE built up over a list of slots. -/
theorem getLsbD_states_foldl (s : State) (l : List (Fin 16)) (m : Word) (k : Nat) (hk : k < 32) :
    (l.foldl (fun m i => m ||| BitVec.ofNat 32 ((voice s i).state.num * 2 ^ (2 * i.val))) m).getLsbD k =
      (m.getLsbD k || l.any fun i => ((voice s i).state.num * 2 ^ (2 * i.val)).testBit k) := by
  induction l generalizing m with
  | nil => simp
  | cons i rest ih =>
    rw [List.foldl_cons, ih, List.any_cons]
    simp only [BitVec.getLsbD_or, BitVec.getLsbD_ofNat, hk, decide_true, Bool.true_and, Bool.or_assoc]

theorem testBit_state (n : VoiceState) (i b : Nat) : (n.num * 2 ^ (2 * i)).testBit b =
    (decide (2 * i ≤ b) && n.num.testBit (b - 2 * i)) := Nat.testBit_mul_two_pow ..

/-- Bits 2i+1 and 2i of VOICE_STATE are the state of slot i (10 R51, R55). -/
theorem voiceStateWord_slot (s : State) (i : Fin 16) :
    (voiceStateWord s).extractLsb' (2 * i.val) 2 = BitVec.ofNat 2 (voice s i).state.num := by
  have hi := i.isLt
  have high : ∀ (n : VoiceState) b, 2 ≤ b → n.num.testBit b = false := by
    intro n b hb
    apply Nat.testBit_lt_two_pow
    calc n.num < 2 ^ 2 := by cases n <;> decide
      _ ≤ 2 ^ b := Nat.pow_le_pow_right (by decide) hb
  apply BitVec.eq_of_getLsbD_eq
  intro b hb
  rw [BitVec.getLsbD_extractLsb', voiceStateWord, getLsbD_states_foldl _ _ _ _ (by omega), Bool.eq_iff_iff]
  simp only [hb, decide_true, Bool.true_and, zero_bit, Bool.false_or, List.any_eq_true, testBit_state,
    BitVec.getLsbD_ofNat, Bool.and_eq_true, decide_eq_true_eq]
  constructor
  · rintro ⟨j, _, hle, ht⟩
    have hj : j = i := by
      apply Fin.ext
      by_contra hne
      have : 2 ≤ 2 * i.val + b - 2 * j.val := by omega
      rw [high _ _ this] at ht
      exact absurd ht (by decide)
    subst hj
    rwa [show 2 * j.val + b - 2 * j.val = b by omega] at ht
  · intro ht
    exact ⟨i, allSlots_complete i, by omega, by rwa [show 2 * i.val + b - 2 * i.val = b by omega]⟩

end Sys2Proof.Machine
end

