-- ==== Sys2Proof/Laws/Float.lean ====
section
/-!
SUPPORT. The order laws of binary32: comparisons are comparisons of integer keys, and a clamp lies between its
bounds whatever its argument.
-/

namespace Sys2Proof.Machine

theorem flt_iff (a b : F32) : flt a b = true ↔ fisNaN a = false ∧ fisNaN b = false ∧ fkey a < fkey b := by
  simp [flt, and_assoc]

theorem fle_iff (a b : F32) : fle a b = true ↔ fisNaN a = false ∧ fisNaN b = false ∧ fkey a ≤ fkey b := by
  simp [fle, and_assoc]

theorem feq_iff (a b : F32) : feq a b = true ↔ fisNaN a = false ∧ fisNaN b = false ∧ fkey a = fkey b := by
  simp [feq, and_assoc]

theorem feq_self {a : F32} (h : fisNaN a = false) : feq a a = true := (feq_iff a a).mpr ⟨h, h, rfl⟩

/-- The maximum with a number is a number at least as large. -/
theorem fmax_bound (x lo : F32) (hlo : fisNaN lo = false) :
    fisNaN (fmax x lo) = false ∧ fkey lo ≤ fkey (fmax x lo) := by
  unfold fmax
  by_cases h : flt lo x = true
  · obtain ⟨_, hx, hk⟩ := (flt_iff _ _).mp h
    simp only [h, if_true]
    exact ⟨hx, le_of_lt hk⟩
  · simp only [h]
    exact ⟨hlo, le_refl _⟩

/-- The minimum with a number is a number at most as large. -/
theorem fmin_bound (x hi : F32) (hhi : fisNaN hi = false) :
    fisNaN (fmin x hi) = false ∧ fkey (fmin x hi) ≤ fkey hi := by
  unfold fmin
  by_cases h : flt x hi = true
  · obtain ⟨hx, _, hk⟩ := (flt_iff _ _).mp h
    simp only [h, if_true]
    exact ⟨hx, le_of_lt hk⟩
  · simp only [h]
    exact ⟨hhi, le_refl _⟩

/-- A clamp lies between its bounds, whatever its argument (00 R9). -/
theorem fclamp_bound (x lo hi : F32) (hlo : fisNaN lo = false) (hhi : fisNaN hi = false)
    (hle : fkey lo ≤ fkey hi) : fle lo (fclamp x lo hi) = true ∧ fle (fclamp x lo hi) hi = true := by
  obtain ⟨hm, hk⟩ := fmax_bound x lo hlo
  obtain ⟨hn, hu⟩ := fmin_bound (fmax x lo) hi hhi
  refine ⟨(fle_iff _ _).mpr ⟨hlo, hn, ?_⟩, (fle_iff _ _).mpr ⟨hn, hhi, hu⟩⟩
  unfold fclamp fmin
  by_cases h : flt (fmax x lo) hi = true
  · simpa [h] using hk
  · simpa [h] using hle

end Sys2Proof.Machine
end

