-- ==== Sys2Proof/Laws/PerInstr.lean ====
section
/-!
SUPPORT. Statements made once per command, over the command as syntax: its header carries its opcode
(30_encoding.md R111, R114).
-/

namespace Sys2Proof.Laws

/-- The opcode of a command (30 R114). -/
def opcode : Instr → BitVec 8
  | .nop _ _ => 0x00#8
  | .prepare _ _ => 0x01#8
  | .process _ _ => 0x02#8
  | .setParam _ _ _ => 0x03#8
  | .getParam _ _ _ => 0x04#8
  | .saveParams _ _ => 0x05#8
  | .loadParams _ _ => 0x06#8
  | .noteOn _ _ _ _ => 0x10#8
  | .noteOff _ _ _ _ => 0x11#8
  | .noteOnNow _ _ _ => 0x12#8
  | .noteOffNow _ _ _ _ => 0x13#8

/-- OP of the header of a command is its opcode. -/
def EncodeOp.Statement (i : Instr) : Prop := headerField (encode i) 24 8 = opcode i

/-- OP of a header of two fields below it. -/
theorem op_of_two (op a : BitVec 8) (b : BitVec 16) : headerField (op ++ a ++ b) 24 8 = op := by
  apply BitVec.eq_of_getLsbD_eq
  intro k hk
  simp only [BitVec.getLsbD_extractLsb', BitVec.getLsbD_append]
  grind

/-- OP of a header of the parameter form. -/
theorem op_of_param (op a b c : BitVec 8) : headerField (op ++ a ++ b ++ c) 24 8 = op := by
  apply BitVec.eq_of_getLsbD_eq
  intro k hk
  simp only [BitVec.getLsbD_extractLsb', BitVec.getLsbD_append]
  grind

/-- OP of a header of the note form. -/
theorem op_of_note (op : BitVec 8) (r : BitVec 1) (note : BitVec 7) (f : BitVec 1) (ofs : BitVec 15) :
    headerField (op ++ r ++ note ++ f ++ ofs) 24 8 = op := by
  apply BitVec.eq_of_getLsbD_eq
  intro k hk
  simp only [BitVec.getLsbD_extractLsb', BitVec.getLsbD_append]
  grind

/-- OP of a header of the immediate note-on form. -/
theorem op_of_note_now (op : BitVec 8) (r : BitVec 1) (note : BitVec 7) (b : BitVec 16) :
    headerField (op ++ r ++ note ++ b) 24 8 = op := by
  apply BitVec.eq_of_getLsbD_eq
  intro k hk
  simp only [BitVec.getLsbD_extractLsb', BitVec.getLsbD_append]
  grind

theorem EncodeOp.nop (a : BitVec 8) (b : BitVec 16) : EncodeOp.Statement (.nop a b) := op_of_two _ a b

theorem EncodeOp.prepare (voices : BitVec 8) (block : BitVec 16) : EncodeOp.Statement (.prepare voices block) :=
  op_of_two _ voices block

theorem EncodeOp.process (channels : BitVec 8) (frames : BitVec 16) :
    EncodeOp.Statement (.process channels frames) :=
  op_of_two _ channels frames

theorem EncodeOp.setParam (a bHigh id : BitVec 8) : EncodeOp.Statement (.setParam a bHigh id) :=
  op_of_param _ a bHigh id

theorem EncodeOp.getParam (a bHigh id : BitVec 8) : EncodeOp.Statement (.getParam a bHigh id) :=
  op_of_param _ a bHigh id

theorem EncodeOp.saveParams (a : BitVec 8) (b : BitVec 16) : EncodeOp.Statement (.saveParams a b) := op_of_two _ a b

theorem EncodeOp.loadParams (a : BitVec 8) (b : BitVec 16) : EncodeOp.Statement (.loadParams a b) := op_of_two _ a b

theorem EncodeOp.noteOn (r : BitVec 1) (note : BitVec 7) (f : BitVec 1) (ofs : BitVec 15) :
    EncodeOp.Statement (.noteOn r note f ofs) :=
  op_of_note _ r note f ofs

theorem EncodeOp.noteOff (r : BitVec 1) (note : BitVec 7) (f : BitVec 1) (ofs : BitVec 15) :
    EncodeOp.Statement (.noteOff r note f ofs) :=
  op_of_note _ r note f ofs

theorem EncodeOp.noteOnNow (r : BitVec 1) (note : BitVec 7) (b : BitVec 16) :
    EncodeOp.Statement (.noteOnNow r note b) :=
  op_of_note_now _ r note b

theorem EncodeOp.noteOffNow (r : BitVec 1) (note : BitVec 7) (f : BitVec 1) (rest : BitVec 15) :
    EncodeOp.Statement (.noteOffNow r note f rest) :=
  op_of_note _ r note f rest

end Sys2Proof.Laws
end

