-- ==== Sys2Proof/Tests/Slice0.lean ====
section
/-!
SUPPORT. The model's own tests: the well-formedness checks, headers written out from 30_encoding.md, examples of
the rules with the results the spec gives, and for each statement with hypotheses a state and operands that meet
them all together.
-/

namespace Sys2Proof.Tests

open Sys2Proof.Machine

set_option maxRecDepth 100000

/-! ## Well-formedness: each check refuses an ill-formed command (30 R114, R119) -/

theorem test_illformed_nop : Instr.wellFormed (.nop 1 0) = false ∧ Instr.wellFormed (.nop 0 1) = false := by decide

theorem test_illformed_setParam :
    Instr.wellFormed (.setParam 1 0 0x16) = false ∧ Instr.wellFormed (.setParam 0 1 0x16) = false := by decide

theorem test_illformed_getParam :
    Instr.wellFormed (.getParam 1 0 0x16) = false ∧ Instr.wellFormed (.getParam 0 1 0x16) = false := by decide

theorem test_illformed_saveParams :
    Instr.wellFormed (.saveParams 1 0) = false ∧ Instr.wellFormed (.saveParams 0 1) = false := by decide

theorem test_illformed_loadParams :
    Instr.wellFormed (.loadParams 1 0) = false ∧ Instr.wellFormed (.loadParams 0 1) = false := by decide

theorem test_illformed_noteOn :
    Instr.wellFormed (.noteOn 1 60 0 5) = false ∧ Instr.wellFormed (.noteOn 0 60 1 5) = false := by decide

theorem test_illformed_noteOff : Instr.wellFormed (.noteOff 1 60 1 5) = false := by decide

theorem test_illformed_noteOnNow :
    Instr.wellFormed (.noteOnNow 1 60 0) = false ∧ Instr.wellFormed (.noteOnNow 0 60 1) = false := by decide

theorem test_illformed_noteOffNow :
    Instr.wellFormed (.noteOffNow 1 60 1 0) = false ∧ Instr.wellFormed (.noteOffNow 0 60 1 1) = false := by decide

/-! ## Headers written out from the formats of 30 R111, R112 and R114 -/

/-- OP 0x00, every other bit zero (R120). -/
theorem test_decode_nop : decode 0x00000000#32 = .ok (.nop 0 0) := by decide

/-- R125: `PREPARE 48000.0, 8, 256`. -/
theorem test_decode_prepare : decode 0x01080100#32 = .ok (.prepare 8 256) := by decide

/-- R292: `PROCESS 2, 256`. -/
theorem test_decode_process : decode 0x02020100#32 = .ok (.process 2 256) := by decide

/-- R125: `SET_PARAM sub2Mix`. -/
theorem test_decode_setParam : decode 0x03000016#32 = .ok (.setParam 0 0 0x16) := by decide

/-- OP 0x04, A = 0xA5, B[15:8] = 0x5A, ID8 = 0x08: reserved bits decode as fields (R121). -/
theorem test_decode_getParam : decode 0x04A55A08#32 = .ok (.getParam 0xA5 0x5A 0x08) := by decide

theorem test_decode_saveParams : decode 0x05000000#32 = .ok (.saveParams 0 0) := by decide

theorem test_decode_loadParams : decode 0x06000000#32 = .ok (.loadParams 0 0) := by decide

/-- R293: `NOTE_ON.D 60, 100, 1.0`. -/
theorem test_decode_noteOn : decode 0x103C0064#32 = .ok (.noteOn 0 60 0 100) := by decide

/-- R125: `NOTE_OFF 60, 5, F`. -/
theorem test_decode_noteOff : decode 0x113C8005#32 = .ok (.noteOff 0 60 1 5) := by decide

/-- R125: `NOTE_ON_NOW.D 69, 1.0`. -/
theorem test_decode_noteOnNow : decode 0x12450000#32 = .ok (.noteOnNow 0 69 0) := by decide

/-- OP 0x13, R = 1, NOTE = 1010101, F = 0, bits 14:0 = 110000000000011. -/
theorem test_decode_noteOffNow : decode 0x13D56003#32 = .ok (.noteOffNow 1 0x55 0 0x6003) := by decide

/-- The ends of the reserved ranges of R118. -/
theorem test_decode_reserved :
    decode 0x07000000#32 = .error (.reservedOpcode 0x07) ∧ decode 0x0F000000#32 = .error (.reservedOpcode 0x0F) ∧
      decode 0x14000000#32 = .error (.reservedOpcode 0x14) ∧ decode 0xFF000000#32 = .error (.reservedOpcode 0xFF) := by
  decide

/-- A header's bytes lie little-endian (20 R83), and three bytes are no header. -/
theorem test_decode_bytes :
    decodeBytes [0x05#8, 0x80#8, 0x3C#8, 0x11#8, 0xAA#8] = .ok (.noteOff 0 60 1 5, [0xAA#8]) ∧
      decodeBytes [0x05#8, 0x80#8, 0x3C#8] = .error (.truncated 3) := by decide

/-! ## Small states -/

/-- The reset state with a value in ARG0. -/
def argState (x : F32) : State := { State.reset with args := State.reset.args.set 0 x }

/-- The default gesture of 30 R124 with a velocity, in ARG0..ARG8. -/
def gestureWords (vel : F32) : Vector Word 9 :=
  #v[vel, 0x3F000000#32, 0x3F000000#32, 0x3F000000#32, 0, 0, 0, 0, 0]

/-- A prepared core of two slots and blocks of 256 frames at 48000 Hz, with a gesture in the ARG registers. -/
def readyState (vel : F32) : State :=
  { State.reset with
    args := gestureWords vel, prepared := true, sampleRate := 0x473B8000#32, blockSize := 256, maxVoicesCfg := 2 }

/-- A slot in a state, of a note, with an age stamp. -/
def slotOf (st : VoiceState) (note : BitVec 7) (stamp : BitVec 32) : Voice :=
  { Voice.reset with state := st, note := note, stamp := stamp }

/-- The ready core with its two slots as given and three triggers counted. -/
def poolState (v0 v1 : Voice) : State :=
  { readyState 0x3F800000#32 with
    voices := (State.reset.voices.set 0 v0).set 1 v1, triggerCounter := 3 }

/-- A queued forced note-off. -/
def offEvent (ofs : BitVec 15) : Event := ⟨.noteOff true, 60, ofs, 0⟩

/-- The state an outcome leaves; the reset state where it leaves none. -/
def after (o : Host.Outcome State Fault Refusal) : State :=
  match o with
  | .next t => t
  | _ => State.reset

/-! ## The commands on the examples of 45_commands.md -/

/-- R291. -/
theorem test_nop : after (exec (.nop 0 0) State.reset) = State.reset := by decide

/-- R290's example: M and WG_FUND of 3 m at 48 kHz. -/
theorem test_prepare :
    (after (exec (.prepare 8 256) (argState 0x473B8000#32))).delay = 420 ∧
      (after (exec (.prepare 8 256) (argState 0x473B8000#32))).wgFund = 0x4264AAAB#32 ∧
      statusWord (after (exec (.prepare 8 256) (argState 0x473B8000#32))) = 1 := by decide

/-- R290, R117: 17 voices are refused. -/
theorem test_prepare_range : (after (exec (.prepare 17 256) (argState 0x473B8000#32))).result = .badField := by decide

/-- R292's example: the second frame after a note-on is the sub-octave channel alone, on every channel. -/
theorem test_process_output :
    outWord (after (exec (.process 2 2)
      (after (exec (.noteOnNow 0 60 0) { readyState 0x3F800000#32 with delay := 420 })))) 1 1 = 0x37E2E506#32 := by
  decide

/-- R282, R287: one silent frame carries an event of offset 1 over to offset 0. -/
theorem test_process_carries :
    (after (exec (.process 2 1) { readyState 0 with queue := [offEvent 1] })).queue = [offEvent 0] ∧
      (after (exec (.process 2 1) { readyState 0 with queue := [offEvent 1] })).sampleCount = 1 := by decide

/-- R295's example: lipTension 1.5 stores 1.0 and ends with VALUE_CLAMPED. -/
theorem test_setParam_clamps :
    param (after (exec (.setParam 0 0 0x00) (argState 0x3FC00000#32))) .lipTension = 0x3F800000#32 ∧
      resultWord (after (exec (.setParam 0 0 0x00) (argState 0x3FC00000#32))) = 5 ∧
      errorWord (after (exec (.setParam 0 0 0x00) (argState 0x3FC00000#32))) = 0x10 := by decide

/-- R302's examples: boreShape 2.5 and 3.5, sub1Den 0.0, lengthMeters +inf, lossPerMeter -0.0. -/
theorem test_paramCheck :
    paramCheck .boreShape 0x40200000#32 = (0x40000000#32, true) ∧
      paramCheck .boreShape 0x40600000#32 = (0x40400000#32, true) ∧
      paramCheck .sub1Den 0x00000000#32 = (0x3F800000#32, true) ∧
      paramCheck .lengthMeters 0x7F800000#32 = (0x41A00000#32, true) ∧
      paramCheck .lossPerMeter 0x80000000#32 = (0x00000000#32, false) := by decide

/-- R297, 10 R40: the reset value of lengthMeters is 3.0. -/
theorem test_getParam : (after (exec (.getParam 0 0 0x08) State.reset)).rdata = 0x40400000#32 := by decide

/-- R296: 0x0E is no parameter. -/
theorem test_getParam_unknown : resultWord (after (exec (.getParam 0 0 0x0E) State.reset)) = 4 := by decide

/-- R300's example: three words of the image of the reset table. -/
theorem test_saveParams :
    presetAt (after (exec (.saveParams 0 0) State.reset)) 2 = 0x3F000000#32 ∧
      presetAt (after (exec (.saveParams 0 0) State.reset)) 10 = 0x40400000#32 ∧
      presetAt (after (exec (.saveParams 0 0) State.reset)) 16 = 0 := by decide

/-- R301: PRESET words without the MAGIC are refused. -/
theorem test_loadParams_refused :
    (after (exec (.loadParams 0 0) { State.reset with mem := [(0x20000, 1#8)] })).result = .presetInvalid := by
  decide

/-- R293's example: the note-on is queued at frame 100. -/
theorem test_noteOn :
    ((after (exec (.noteOn 0 60 0 100) (readyState 0x3F800000#32))).queue.map fun e => (e.note, e.offset)) =
      [(60, 100)] := by decide

/-- R279: velocity -0.0 queues a note-off. -/
theorem test_noteOn_off :
    ((after (exec (.noteOn 0 60 0 100) (readyState 0x80000000#32))).queue.map fun e => e.kind) =
      [.noteOff false] := by decide

/-- R294's example: a forced release of note 60 at frame 5. -/
theorem test_noteOff :
    (after (exec (.noteOff 0 60 1 5) (readyState 0))).queue = [⟨.noteOff true, 60, 5, 0⟩] := by decide

/-- R298's example: one voice active. -/
theorem test_noteOnNow :
    activeCount (after (exec (.noteOnNow 0 69 0) (readyState 0x3F800000#32))) = 1 ∧
      activeMask (after (exec (.noteOnNow 0 69 0) (readyState 0x3F800000#32))) = 1 ∧
      (after (exec (.noteOnNow 0 69 0) (readyState 0x3F800000#32))).triggerCounter = 1 := by decide

/-- R277's example: the note-on of a full pool takes the older of two Sounding slots. -/
theorem test_noteOnNow_steals :
    (voice (after (exec (.noteOnNow 0 64 0) (poolState (slotOf .sounding 60 1) (slotOf .sounding 62 2)))) 0).note = 64 := by
  decide

/-- R299's example: VOICE_STATE 2, still one voice active. -/
theorem test_noteOffNow :
    voiceStateWord (after (exec (.noteOffNow 0 69 0 0) (poolState (slotOf .sounding 69 1) Voice.reset))) = 2 ∧
      activeCount (after (exec (.noteOffNow 0 69 0 0) (poolState (slotOf .sounding 69 1) Voice.reset))) = 1 := by
  decide

/-! ## The datapath on the examples of its rules -/

/-- R149's example: integ 0.1, pm' and pref', and the output 1.0. -/
theorem test_pllStep :
    let p : Pll := ⟨0, fdiv 0x42C80000#32 0x473B8000#32, ⟨0x3E800000#32, 0, 0, incSubOf 0x42C80000#32 0x3F000000#32 0x473B8000#32⟩,
      channelTrigger 0⟩
    let r := pllStep (readyState 0) p
    r.1 = 0x3F800000#32 ∧ r.2.2.ch0.pm = 0x3E675D42#32 ∧ r.2.2.ch0.integ = 0x3DCCCCCD#32 ∧
      r.2.2.pref = 0x3B088889#32 := by decide

/-- R192's examples with R = 0.95 and Fl = 0.5, and the cap. -/
theorem test_shapeReflection :
    fmin (shapeReflection 0 0x3F733333#32 0x3F000000#32) Config.k0_999 = 0x3F733333#32 ∧
      fmin (shapeReflection 1 0x3F733333#32 0x3F000000#32) Config.k0_999 = 0x3F366666#32 ∧
      fmin (shapeReflection 2 0x3F733333#32 0x3F000000#32) Config.k0_999 = 0x3E733333#32 ∧
      fmin (shapeReflection 3 0x3F733333#32 0x3F000000#32) Config.k0_999 = 0x3F180000#32 ∧
      fmin (shapeReflection 0 0x3F800000#32 0x3F000000#32) Config.k0_999 = 0x3F7FBE77#32 := by decide

/-- R211's example: bellCutoff 4000, scaleMeters 0 at 48000 Hz. -/
theorem test_bellCoeffs :
    bellCoeffs (readyState 0) 0 ⟨0, 0, 0⟩ = ⟨0, 0x3F17A688#32, 0x3ED0B2F0#32⟩ := by decide +kernel

/-- R223's example: trumpet section 0 at 48000 Hz and reset controls. -/
theorem test_bankSecCoeff :
    bankSecCoeff (readyState 0) 0 0 =
      ⟨0x3F824F0D#32, 0xBFF84409#32, 0x3F721A6E#32, 0xBFF84409#32, 0x3F76B88A#32⟩ := by decide +kernel

/-- R242's examples with the default gesture at 48000 Hz. -/
theorem test_envelopeCoeffs :
    attackCoeff (readyState 0) (defaultGesture 0x3F800000#32) = 0x3B884000#32 ∧
      releaseCoeff (readyState 0) (defaultGesture 0x3F800000#32) = 0x3F7FF6E6#32 ∧
      rFastOf (readyState 0) = 0x3F7D58E0#32 := by decide

/-- R241's spot values: notes 0, 21, 60, 69, 108 and 127. -/
theorem test_noteFreq :
    noteFreq 0 = 0x4102D013#32 ∧ noteFreq 21 = 0x41DC0000#32 ∧ noteFreq 60 = 0x4382D013#32 ∧
      noteFreq 69 = 0x43DC0000#32 ∧ noteFreq 108 = 0x4582D013#32 ∧ noteFreq 127 = 0x4643FF6A#32 := by decide

/-- R16: a tiny negative argument wraps to 0.0, and half a cycle to -0.5; R9: floor keeps the sign of a zero. -/
theorem test_wrap :
    wrap 0x80000001#32 = 0x00000000#32 ∧ wrapShortest 0x3F000000#32 = 0xBF000000#32 ∧
      ffloor 0x80000000#32 = 0x80000000#32 ∧ wrap 0x80000000#32 = 0x00000000#32 := by decide

/-- R125: `SET_PARAM sub2Mix, 0.25` is two writes; R123: a note of 128 does not fit its field. -/
theorem test_assemble :
    assemble (.setParam 0x16 0x3E800000#32) =
        some [.write 0x100#32 .word 0x3E800000#32, .write 0x200#32 .word 0x03000016#32] ∧
      assemble (.noteOff 128 5 true) = none := by decide

/-! ## Witnesses: a state and operands that meet the hypotheses of each statement together -/

/-- The reset state with one act of the host to come. -/
def pendingState (act : HostAct) : State := { State.reset with pending := [act] }

theorem witness_DecodeThenEncode : decode 0x113C8005#32 = .ok (.noteOff 0 60 1 5) := by decide

/-- A reserved bit at each end of a mask: bit 0 and bit 23. -/
theorem witness_ReservedBitsEndBadField :
    (decode 0x00000001#32 = .ok (.nop 0 1) ∧ 0x00000001#32 &&& rowMask (.nop 0 1) ≠ rowMatch (.nop 0 1)) ∧
      (decode 0x13BC0000#32 = .ok (.noteOffNow 1 60 0 0) ∧
        0x13BC0000#32 &&& rowMask (.noteOffNow 1 60 0 0) ≠ rowMatch (.noteOffNow 1 60 0 0)) := by decide

theorem witness_StepRunsDecodedCommand :
    (pendingState (.write 0x200#32 .word 0x01080100#32)).pending = .write 0x200#32 .word 0x01080100#32 :: [] ∧
      decode 0x01080100#32 = .ok (.prepare 8 256) := by decide

theorem witness_FetchWordRunsCommand : decodeTableWord 32 0x13000000 = some (.noteOffNow 0 0 0 0) := by decide

/-- The ends of both reserved ranges. -/
theorem witness_ReservedOpcodeEndsBadOpcode :
    (ReservedOp (headerField 0x07000000#32 24 8) ∧ ReservedOp (headerField 0x0F000000#32 24 8) ∧
      ReservedOp (headerField 0x14000000#32 24 8) ∧ ReservedOp (headerField 0xFF000000#32 24 8)) ∧
      (pendingState (.write 0x200#32 .word 0x07000000#32)).pending = .write 0x200#32 .word 0x07000000#32 :: [] := by
  unfold ReservedOp; decide

/-- A wrong width at an aligned address, a word at a misaligned one. -/
theorem witness_BadAccessesFault :
    (Width.half ≠ .word ∧ (pendingState (.read 0x200#32 .half)).pending = .read 0x200#32 .half :: []) ∧
      ((0x203#32 : Word).toNat % 4 ≠ 0 ∧
        (pendingState (.write 0x203#32 .word 1)).pending = .write 0x203#32 .word 1 :: []) := by decide

theorem witness_LegalHostNeverStops :
    LegalHost (pendingState (.read 0xFFFFFFFC#32 .word)) ∧ LegalHost (pendingState .reset) ∧
      State.reset.pending = [] := by
  refine ⟨?_, ?_, rfl⟩ <;> intro act h <;> simp only [pendingState, List.mem_singleton] at h <;> subst h <;> decide

/-- The first register, the last introspection one, the first and the last ARG register, and CMD. -/
theorem witness_RegisterReadsAnswerTheirWord :
    (pendingState (.read 0x000 .word)).pending = .read 0x000 .word :: [] ∧
      (pendingState (.read 0x050 .word)).pending = .read 0x050 .word :: [] ∧
      (pendingState (.read (BitVec.ofNat 32 (0x100 + 4 * (0 : Fin 9).val)) .word)).pending = .read 0x100 .word :: [] ∧
      (pendingState (.read (BitVec.ofNat 32 (0x100 + 4 * (8 : Fin 9).val)) .word)).pending = .read 0x120 .word :: [] ∧
      (pendingState (.read 0x200 .word)).pending = .read 0x200 .word :: [] := by decide

/-- The last offset of the window, the offset after ARG8, and both ends of the unmapped ranges. -/
theorem witness_UnmappedReadsZeroIgnoresWrites :
    (regionOf (0x18000#32 : Word).toNat = .unmapped ∧ regionOf (0x1FFFC#32 : Word).toNat = .unmapped ∧
      regionOf (0x20100#32 : Word).toNat = .unmapped ∧ regionOf (0xFFFFFFFC#32 : Word).toNat = .unmapped) ∧
      (regionOf (0x124#32 : Word).toNat = .registers ∧ ∀ r, regOffset r ≠ (0x124#32 : Word).toNat) ∧
      (regionOf (0xFFFC#32 : Word).toNat = .registers ∧ ∀ r, regOffset r ≠ (0xFFFC#32 : Word).toNat) ∧
      (pendingState (.read 0x124#32 .word)).pending = .read 0x124#32 .word :: [] ∧
      (pendingState (.write 0x20100#32 .word 1)).pending = .write 0x20100#32 .word 1 :: [] := by
  have h : ∀ r, regOffset r ≠ 0x124 ∧ regOffset r ≠ 0xFFFC := by
    intro r
    cases r with
    | arg i => simp only [regOffset]; omega
    | _ => decide
  exact ⟨by decide, ⟨by decide, fun r => (h r).1⟩, ⟨by decide, fun r => (h r).2⟩, by decide, by decide⟩

/-- The first and the last read-only register, the first and the last word of OUT. -/
theorem witness_ReadOnlyWritesIgnored :
    (ReadOnlyReg .id ∧ regOffset .id = (0x000#32 : Word).toNat) ∧
      (ReadOnlyReg .caps2 ∧ regOffset .caps2 = (0x050#32 : Word).toNat) ∧
      (0x10000 ≤ (0x10000#32 : Word).toNat ∧ (0x17FFC#32 : Word).toNat < 0x18000) ∧
      (pendingState (.write 0x17FFC#32 .word 1)).pending = .write 0x17FFC#32 .word 1 :: [] := by
  unfold ReadOnlyReg; decide

/-- The first and the last ARG register, and ERROR. -/
theorem witness_ArgAndErrorWrites :
    (pendingState (.write (BitVec.ofNat 32 (0x100 + 4 * (0 : Fin 9).val)) .word 7)).pending =
        .write 0x100#32 .word 7 :: [] ∧
      (pendingState (.write (BitVec.ofNat 32 (0x100 + 4 * (8 : Fin 9).val)) .word 7)).pending =
        .write 0x120#32 .word 7 :: [] ∧
      (pendingState (.write 0x00C#32 .word 0xFF)).pending = .write 0x00C#32 .word 0xFF :: [] := by decide

/-- The first and the last word of PRESET. -/
theorem witness_PresetWriteReadsBack :
    0 < 64 ∧ (pendingState (.write (BitVec.ofNat 32 (0x20000 + 4 * 0)) .word 7)).pending =
        .write 0x20000#32 .word 7 :: [] ∧
      63 < 64 ∧ (pendingState (.write (BitVec.ofNat 32 (0x20000 + 4 * 63)) .word 7)).pending =
        .write 0x200FC#32 .word 7 :: [] := by decide

theorem witness_ResetState : (pendingState .reset).pending = .reset :: [] := rfl

theorem witness_FailedCommandChangesNothing :
    exec (.nop 1 0) State.reset = .next (endCommand State.reset .badField) ∧
      (endCommand State.reset .badField).result ≠ .ok ∧
      (endCommand State.reset .badField).result ≠ .valueClamped := ⟨rfl, by decide, by decide⟩

/-- Each way PREPARE is out of range, each kind of PROCESS refusal, and a core that is not prepared. -/
theorem witness_ErrorsInPriorityOrder :
    ((0 : BitVec 8).toNat = 0 ∧ 16 < (17 : BitVec 8).toNat ∧ (0 : BitVec 16).toNat = 0 ∧
      4096 < (4097 : BitVec 16).toNat ∧ fisNaN (argValue (argState 0x7FC00000#32) 0) = true ∧
      flt (argValue (argState 0x45F9FFFF#32) 0) 0x45FA0000#32 = true ∧
      flt 0x483B8000#32 (argValue (argState 0x483B8001#32) 0) = true) ∧
    (2 < (3 : BitVec 8).toNat ∧ State.reset.prepared = false ∧
      (readyState 0).prepared = true ∧ (readyState 0).blockSize.toNat < (257 : BitVec 16).toNat) := by decide

theorem witness_NaNOperandsRefused :
    fisNaN (argValue (argState 0x7F800001#32) 0) = true ∧
      ((∃ k : Fin 9, fisNaN (argValue (readyState 0xFFFFFFFF#32) k) = true) ∧
        (readyState 0xFFFFFFFF#32).prepared = true) ∧
      ∃ p : Param, fisNaN (presetAt { State.reset with mem :=
        [(0x20008, 0xFF#8), (0x20009, 0xFF#8), (0x2000A, 0xFF#8), (0x2000B, 0x7F#8)] } (2 + (paramRank p).val)) = true :=
  ⟨by decide, ⟨⟨0, by decide⟩, rfl⟩, .lipTension, by decide⟩

theorem witness_OnlyTheseCommandsWrite :
    exec (.getParam 0 0 0x08) State.reset = .next (finish State.reset (run (.getParam 0 0 0x08) State.reset)) := rfl

/-- Both ends of every range: 1 and 16 voices, blocks of 1 and 4096, FS_MIN and FS_MAX. -/
theorem witness_PrepareCompletes :
    (1 ≤ (1 : BitVec 8).toNat ∧ (16 : BitVec 8).toNat ≤ 16 ∧ 1 ≤ (1 : BitVec 16).toNat ∧
      (4096 : BitVec 16).toNat ≤ 4096) ∧
    (fisNaN (argValue (argState 0x45FA0000#32) 0) = false ∧ flt (argValue (argState 0x45FA0000#32) 0) 0x45FA0000#32 = false ∧
      flt 0x483B8000#32 (argValue (argState 0x45FA0000#32) 0) = false) ∧
    (fisNaN (argValue (argState 0x483B8000#32) 0) = false ∧ flt (argValue (argState 0x483B8000#32) 0) 0x45FA0000#32 = false ∧
      flt 0x483B8000#32 (argValue (argState 0x483B8000#32) 0) = false) := by decide

theorem witness_PrepareTwiceIsOnce :
    ∃ t, exec (.prepare 8 256) (argState 0x473B8000#32) = .next t ∧ t.result = .ok ∧ t.prepared = true :=
  ⟨_, exec_run _ _, by decide, by decide⟩

/-- A block of the whole BLOCK_SIZE, and one of a single frame. -/
theorem witness_ProcessCompletes :
    1 ≤ (2 : BitVec 8).toNat ∧ (2 : BitVec 8).toNat ≤ 2 ∧ 1 ≤ (1 : BitVec 16).toNat ∧
      (256 : BitVec 16).toNat ≤ 4096 ∧ (readyState 0).prepared = true ∧
      (256 : BitVec 16).toNat ≤ (readyState 0).blockSize.toNat := by decide

/-- One event due in the block and one carried over. -/
theorem witness_ProcessCarriesEventsOver :
    ∃ t, QueueLegal { readyState 0 with queue := [offEvent 0, offEvent 1] } ∧
      exec (.process 1 1) { readyState 0 with queue := [offEvent 0, offEvent 1] } = .next t ∧ t.result = .ok :=
  ⟨_, by unfold QueueLegal; decide, exec_run _ _, by decide⟩

theorem witness_SilentBlockWritesZeros :
    (∀ i, inUse (readyState 0) i = true → (voice (readyState 0) i).state = .idle) ∧
      (∀ ev ∈ [offEvent 256], (256 : BitVec 16).toNat ≤ ev.offset.toNat) ∧ (readyState 0).prepared = true := by
  decide

theorem witness_EnvelopeStep :
    (slotOf .sounding 60 0).state = .sounding ∧ (slotOf .releasing 60 0).state = .releasing := ⟨rfl, rfl⟩

/-- The largest finite values, a subnormal and -0.0. -/
theorem witness_WrapRange :
    ffinite 0x7F7FFFFF#32 = true ∧ ffinite 0xFF7FFFFF#32 = true ∧ ffinite 0x00000001#32 = true ∧
      ffinite 0x80000000#32 = true := by decide

/-- A finite result, and the two sides of the overflow threshold. -/
theorem witness_RoundToNearestEven :
    ffinite (roundUnits false 1 3) = true ∧ ffinite (0x7F7FFFFF#32) = true ∧
      ffinite (roundUnits true ((2 ^ 25 - 1) * 2 ^ 252 - 1) 1) = true ∧
      fisInf (roundUnits true ((2 ^ 25 - 1) * 2 ^ 252) 1) = true := by decide

theorem witness_ExpEnclosed : 0 < 1 ∧ 256 ≤ 256 * 1 ∧ 0 ≤ 256 * 1 := by decide

/-- Below the domain, above it, both ends of it, a real inside it, and a tie between two integers. -/
theorem witness_ParamCheckGivesDomainValue :
    (fisNaN 0xFF800000#32 = false ∧ flt 0xFF800000#32 (paramRow .customGain0).lo = true) ∧
      (fisNaN 0x41A00001#32 = false ∧ flt (paramRow .lengthMeters).hi 0x41A00001#32 = true) ∧
      (presetValid .sub1Num 0x3F800000#32 = true ∧ presetValid .sub1Num 0x41800000#32 = true ∧
        presetValid .lossPerMeter 0x80000000#32 = true) ∧
      (fisNaN 0x40200000#32 = false ∧ flt 0x40200000#32 (paramRow .boreShape).lo = false ∧
        flt (paramRow .boreShape).hi 0x40200000#32 = false ∧ (paramRow .boreShape).kind ≠ .real ∧
        2 * (units 0x40200000#32 - 2 * 2 ^ 149).natAbs = 2 ^ 149) := by decide

/-- A core not prepared, a prepared one with the value already held, and one with a changed value, for a parameter of each
row of R303. -/
theorem witness_SetParamCompletes :
    fisNaN (argValue (argState 0x3F800000#32) 0) = false ∧ State.reset.prepared = false ∧
      (readyState 0x3F000000#32).prepared = true ∧
      feq (paramCheck .lipTension (argValue (readyState 0x3F000000#32) 0)).1
        (param (readyState 0x3F000000#32) .lipTension) = true ∧
      ∀ p ∈ [Param.lipTension, .nonlinearity, .lengthMeters, .reflectionCoeff, .lossPerMeter, .brightness, .hornType,
        .bellCutoff, .sub1Num, .sub2Num],
        feq (paramCheck p (argValue (readyState 0x41800000#32) 0)).1 (param (readyState 0x41800000#32) p) = false := by
  decide

/-- The ends of the unknown ranges. -/
theorem witness_UnknownParamRefused :
    (0x19 ≤ (0x19 : BitVec 8).toNat ∧ (0x1F : BitVec 8).toNat ≤ 0x1F) ∧ 0x28 ≤ (0x28 : BitVec 8).toNat ∧
      0x28 ≤ (0xFF : BitVec 8).toNat := by decide

/-- A prepared core with one live slot: lengthMeters 3 to 5. -/
theorem witness_LengthWriteMovesTheTap :
    (readyState 0x40A00000#32).prepared = true ∧ fisNaN (argValue (readyState 0x40A00000#32) 0) = false ∧
      feq (paramCheck .lengthMeters (argValue (readyState 0x40A00000#32) 0)).1
        (param (readyState 0x40A00000#32) .lengthMeters) = false := by decide

/-- hornType 0 to 5, the two ends of its domain. -/
theorem witness_HornWriteSwitchesBanks :
    (poolState (slotOf .sounding 60 1) Voice.reset).prepared = true ∧
      fisNaN (argValue (readyState 0x40A00000#32) 0) = false ∧
      feq (paramCheck .hornType (argValue (readyState 0x40A00000#32) 0)).1
        (param (readyState 0x40A00000#32) .hornType) = false ∧
      (readyState 0x40A00000#32).prepared = true := by decide

/-- Each of the four ratio parameters set to 16. -/
theorem witness_RatioWriteRelocksItsChannel :
    ∃ t0 t1 t2 t3,
      (readyState 0x41800000#32).prepared = true ∧ fisNaN (argValue (readyState 0x41800000#32) 0) = false ∧
      (∀ p ∈ [Param.sub1Num, Param.sub1Den, Param.sub2Num, Param.sub2Den],
        feq (paramCheck p (argValue (readyState 0x41800000#32) 0)).1 (param (readyState 0x41800000#32) p) = false) ∧
      exec (.setParam 0 0 (paramRow .sub1Num).id) (readyState 0x41800000#32) = .next t0 ∧
      exec (.setParam 0 0 (paramRow .sub1Den).id) (readyState 0x41800000#32) = .next t1 ∧
      exec (.setParam 0 0 (paramRow .sub2Num).id) (readyState 0x41800000#32) = .next t2 ∧
      exec (.setParam 0 0 (paramRow .sub2Den).id) (readyState 0x41800000#32) = .next t3 :=
  ⟨_, _, _, _, by decide, by decide, by decide, exec_run _ _, exec_run _ _, exec_run _ _,
    exec_run _ _⟩

/-- The reset state with its own preset image in PRESET. -/
def imageState : State := { State.reset with mem := writePreset [] 0 (presetImage State.reset) }

theorem imageState_word (p : Param) : presetAt imageState (2 + (paramRank p).val) = param State.reset p := by
  have hk : 2 + (paramRank p).val < (presetImage State.reset).length := by
    have := (paramRank p).isLt
    rw [presetImage_length]; simp only [Config.paramCount] at this; omega
  have hr : regionOf (presetAddr (2 + (paramRank p).val)) = .preset := by
    rw [presetImage_length] at hk
    unfold regionOf presetAddr outBase outEnd presetBase presetEnd
    rw [if_neg (by omega), if_neg (by omega), if_pos (by omega)]
  have hw := readWord_writePreset [] 0 (presetImage State.reset) _ hk
  rw [Nat.zero_add, presetImage_param] at hw
  simp only [presetAt, busRead, hr]
  exact hw

/-- A valid image is one that SAVE_PARAMS wrote, an invalid one is all zeros; on a prepared core whose lipTension is 1.0
the valid one changes it. -/
theorem witness_LoadParamsCompletes :
    presetAt imageState 0 = 0x47485031#32 ∧ presetAt imageState 1 = 31 ∧
      (∀ p, presetValid p (presetAt imageState (2 + (paramRank p).val)) = true) ∧
      presetAt State.reset 0 ≠ 0x47485031#32 ∧
      (let s := setParam { imageState with prepared := true } .lipTension 0x3F800000#32
       s.prepared = true ∧ s.mem = imageState.mem ∧
        feq (presetAt imageState (2 + (paramRank .lipTension).val)) (param s .lipTension) = false) :=
  ⟨by decide, by decide, fun p => by rw [imageState_word]; cases p <;> decide, by decide, rfl, rfl,
    by rw [imageState_word]; decide⟩

theorem reset_params_legal : ParamsLegal State.reset := by
  intro p; cases p <;> decide

theorem witness_PresetRoundTrip :
    ∃ t, ParamsLegal State.reset ∧ exec (.saveParams 0 0) State.reset = .next t :=
  ⟨_, reset_params_legal, exec_run _ _⟩

/-- A velocity above zero, and the zero of either sign. -/
theorem witness_NoteOnCompletes :
    (readyState 0x3F800000#32).prepared = true ∧ (readyState 0x3F800000#32).queue.length < 64 ∧
      (∀ k : Fin 9, fisNaN (argValue (readyState 0x3F800000#32) k) = false) ∧
      fle (argValue (readyState 0x3F800000#32) 0) 0x00000000#32 = false ∧
      (∀ k : Fin 9, fisNaN (argValue (readyState 0x80000000#32) k) = false) ∧
      fle (argValue (readyState 0x80000000#32) 0) 0x00000000#32 = true := by decide

/-- 63 events leave room for one more. -/
theorem witness_NoteOffCompletes :
    (readyState 0).prepared = true ∧ (List.replicate 63 (offEvent 5)).length < 64 := by decide

theorem witness_QueueFullRefused :
    ∃ t u, (List.replicate 64 (offEvent 5)).length = 64 ∧ (readyState 0x3F800000#32).prepared = true ∧
      (∀ k : Fin 9, fisNaN (argValue (readyState 0x3F800000#32) k) = false) ∧
      exec (.noteOnNow 0 60 0) (readyState 0x3F800000#32) = .next t ∧
      exec (.noteOffNow 0 60 1 0) (readyState 0x3F800000#32) = .next u :=
  ⟨_, _, by decide, by decide, by decide, exec_run _ _, exec_run _ _⟩

/-- The lowest Idle slot is the last one in use. -/
theorem witness_NoteOnNowTakesLowestIdleSlot :
    let s := poolState (slotOf .sounding 60 1) Voice.reset
    s.prepared = true ∧ (∀ k : Fin 9, fisNaN (argValue s k) = false) ∧ fle (argValue s 0) 0x00000000#32 = false ∧
      (1 : Fin 16).val < s.maxVoicesCfg.toNat ∧ (voice s 1).state = .idle ∧
      (∀ j : Fin 16, j < 1 → (voice s j).state ≠ .idle) := by decide

/-- A Releasing slot before an older Sounding one; two Sounding slots; and two of equal age. -/
theorem witness_NoteOnNowStealsTheOldestSlot :
    (let s := poolState (slotOf .sounding 60 1) (slotOf .releasing 62 2);
      s.prepared = true ∧ (∀ k : Fin 9, fisNaN (argValue s k) = false) ∧ fle (argValue s 0) 0x00000000#32 = false ∧
      (∀ j : Fin 16, j.val < s.maxVoicesCfg.toNat → (voice s j).state ≠ .idle) ∧
      (1 : Fin 16).val < s.maxVoicesCfg.toNat ∧ (voice s 1).state = .releasing ∧
      (∀ j : Fin 16, j.val < s.maxVoicesCfg.toNat → (voice s j).state = .releasing →
        age s j < age s 1 ∨ (age s j = age s 1 ∧ 1 ≤ j))) ∧
    (let s := poolState (slotOf .sounding 60 1) (slotOf .sounding 62 1);
      (∀ j : Fin 16, j.val < s.maxVoicesCfg.toNat → (voice s j).state ≠ .idle) ∧
      (0 : Fin 16).val < s.maxVoicesCfg.toNat ∧ (voice s 0).state = .sounding ∧
      (∀ j : Fin 16, j.val < s.maxVoicesCfg.toNat → (voice s j).state ≠ .releasing) ∧
      (∀ j : Fin 16, j.val < s.maxVoicesCfg.toNat → (voice s j).state = .sounding →
        age s j < age s 0 ∨ (age s j = age s 0 ∧ 0 ≤ j))) := by decide

theorem witness_NoteOffNowReleasesEveryMatch :
    (poolState (slotOf .sounding 60 1) (slotOf .releasing 60 2)).prepared = true ∧
      (∀ k : Fin 9, fisNaN (argValue (readyState 0xFF800000#32) k) = false) ∧
      fle (argValue (readyState 0xFF800000#32) 0) 0x00000000#32 = true ∧
      (readyState 0xFF800000#32).prepared = true := by decide

/-- A state with nothing listed in memory has zeros in OUT. -/
theorem empty_output_bounded (s : State) (h : s.mem = []) : OutputBounded s := by
  intro c n hc hn
  have hr : regionOf (outAddr c n) = .out := by
    unfold regionOf outAddr outBase outEnd outStride
    simp only [Config.maxChannels, Config.maxBlock] at hc hn
    rw [if_neg (by omega), if_pos (by omega)]
  have h0 : outWord s c n = 0 := by
    simp only [outWord, busRead, hr, readWord, readByte, h, storeRead]
    decide
  rw [h0]
  decide

/-- The premise of every invariant statement but the parameters' (reset_params_legal), with the step that writes a
PRESET word. -/
theorem witness_StepKeeps :
    ∃ t, step (pendingState (.write 0x200FC#32 .word 7)) = .next t ∧
      MemoryLegal (pendingState (.write 0x200FC#32 .word 7)) ∧ RailsLegal (pendingState (.write 0x200FC#32 .word 7)) ∧
      ConfigLegal (pendingState (.write 0x200FC#32 .word 7)) ∧ PoolLegal (pendingState (.write 0x200FC#32 .word 7)) ∧
      DelayLegal (pendingState (.write 0x200FC#32 .word 7)) ∧
      CrossfadeLegal (pendingState (.write 0x200FC#32 .word 7)) ∧
      QueueLegal (pendingState (.write 0x200FC#32 .word 7)) ∧
      OutputBounded (pendingState (.write 0x200FC#32 .word 7)) ∧
      IntegratorsBounded (pendingState (.write 0x200FC#32 .word 7)) ∧
      FormantsBounded (pendingState (.write 0x200FC#32 .word 7)) :=
  ⟨_, rfl, by unfold MemoryLegal InWindow; decide, by unfold RailsLegal RailLegal; decide, by unfold ConfigLegal; decide,
    by unfold PoolLegal; decide, by unfold DelayLegal; decide, by unfold CrossfadeLegal; decide,
    by unfold QueueLegal; decide, empty_output_bounded _ rfl, by unfold IntegratorsBounded; decide,
    by unfold FormantsBounded BankBounded SectionBounded; decide⟩

end Sys2Proof.Tests
end

section
/-!
PROOFS. Rounding to binary32 (00_scope.md R8). `unitsOfMag` is the value of magnitude bits, strictly increasing in them;
`roundMag_spec` says once what rounding does: it takes one of the two neighbours of the fraction, by the middle between
them. That rounding is to nearest, where it overflows, that it is monotone and that it is exact on values all follow from
that lemma.
-/

namespace Sys2Proof.Machine

/-! ## Sign and magnitude of an encoding -/

theorem fmag_lt (x : F32) : fmag x < 2 ^ 31 := Nat.mod_lt _ (by decide)

theorem fmag_withSign (neg : Bool) {m : Nat} (h : m < 2 ^ 31) : fmag (withSign neg m) = m := by
  cases neg <;> simp only [fmag, withSign, BitVec.toNat_ofNat, if_true, Bool.false_eq_true, if_false] <;> omega

theorem fsign_withSign (neg : Bool) {m : Nat} (h : m < 2 ^ 31) : fsign (withSign neg m) = neg := by
  cases neg <;> simp [fsign, withSign, BitVec.msb_eq_decide] <;> omega

/-! ## The value of magnitude bits -/

/-- The value of magnitude bits in units of 2^-149, as `magUnits` reads it, for bits beyond those of finite values too. -/
def unitsOfMag (m : Nat) : Nat := if m / 2 ^ 23 = 0 then m else (2 ^ 23 + m % 2 ^ 23) * 2 ^ (m / 2 ^ 23 - 1)

theorem magUnits_eq (x : F32) : magUnits x = unitsOfMag (fmag x) := rfl

/-- The value with significand q and exponent s; q = 2^24 carries into the next exponent. -/
theorem unitsOfMag_add {s q : Nat} (hs : s = 0 ∨ 2 ^ 23 ≤ q) (hq : q ≤ 2 ^ 24) :
    unitsOfMag (s * 2 ^ 23 + q) = q * 2 ^ s := by
  unfold unitsOfMag
  obtain hlow | hmid | rfl : q < 2 ^ 23 ∨ (2 ^ 23 ≤ q ∧ q < 2 ^ 24) ∨ q = 2 ^ 24 := by omega
  · obtain rfl : s = 0 := by omega
    rw [if_pos (by omega)]
    simp
  · rw [if_neg (by omega), show (s * 2 ^ 23 + q) / 2 ^ 23 - 1 = s by omega,
      show 2 ^ 23 + (s * 2 ^ 23 + q) % 2 ^ 23 = q by omega]
  · rw [if_neg (by omega), show (s * 2 ^ 23 + 2 ^ 24) / 2 ^ 23 - 1 = s + 1 by omega,
      show (s * 2 ^ 23 + 2 ^ 24) % 2 ^ 23 = 0 by omega]
    ring

/-- All magnitude bits are a significand below 2^24 and an exponent, normalized unless the exponent is least. -/
theorem exists_significand (m : Nat) : ∃ s q, m = s * 2 ^ 23 + q ∧ (s = 0 ∨ 2 ^ 23 ≤ q) ∧ q < 2 ^ 24 := by
  obtain h | h := Nat.lt_or_ge m (2 ^ 23)
  · exact ⟨0, m, by omega, .inl rfl, by omega⟩
  · exact ⟨m / 2 ^ 23 - 1, 2 ^ 23 + m % 2 ^ 23, by omega, by omega, by omega⟩

theorem unitsOfMag_strictMono : StrictMono unitsOfMag := by
  refine strictMono_nat_of_lt_succ fun m => ?_
  obtain ⟨s, q, rfl, hs, hq⟩ := exists_significand m
  rw [add_assoc, unitsOfMag_add hs hq.le, unitsOfMag_add (by omega) hq]
  exact Nat.mul_lt_mul_of_pos_right q.lt_succ_self (by positivity)

theorem unitsOfMag_zero : unitsOfMag 0 = 0 := rfl

theorem unitsOfMag_maxFinite : unitsOfMag 0x7F7FFFFF = (2 ^ 24 - 1) * 2 ^ 253 :=
  unitsOfMag_add (s := 253) (q := 2 ^ 24 - 1) (by decide) (by decide)

theorem unitsOfMag_infinity : unitsOfMag 0x7F800000 = 2 ^ 24 * 2 ^ 253 :=
  unitsOfMag_add (s := 253) (q := 2 ^ 24) (by decide) (by decide)

theorem unitsOfMag_half : unitsOfMag 0x3F000000 = 2 ^ 148 :=
  (unitsOfMag_add (s := 125) (q := 2 ^ 23) (by decide) (by decide)).trans (by rw [← pow_add])

theorem unitsOfMag_one : unitsOfMag 0x3F800000 = 2 ^ 149 :=
  (unitsOfMag_add (s := 126) (q := 2 ^ 23) (by decide) (by decide)).trans (by rw [← pow_add])

/-! ## What rounding does -/

/-- num/den lies past the middle between the values of the magnitude bits m and m + 1, or on it with m odd. -/
def PastMiddle (num den m : Nat) : Prop :=
  (unitsOfMag m + unitsOfMag (m + 1)) * den < 2 * num ∨
    ((unitsOfMag m + unitsOfMag (m + 1)) * den = 2 * num ∧ m % 2 = 1)

/-- The quotient of the scaled division is a normalized significand below 2^24. -/
theorem scaled_quotient_bounds (num den : Nat) :
    let s := (num / den).log2 - 23
    (s = 0 ∨ 2 ^ 23 ≤ num / (den * 2 ^ s)) ∧ num / (den * 2 ^ s) < 2 ^ 24 := by
  intro s
  rw [← Nat.div_div_eq_div_mul]
  constructor
  · by_cases h : s = 0
    · exact .inl h
    · right
      have hlog : (num / den).log2 = 23 + s := by omega
      have hne : num / den ≠ 0 := by rintro h0; simp [s, h0] at h
      rw [Nat.le_div_iff_mul_le (by positivity), ← pow_add, ← hlog]
      exact Nat.log2_self_le hne
  · rw [Nat.div_lt_iff_lt_mul (by positivity), ← pow_add]
    exact Nat.lt_log2_self.trans_le (Nat.pow_le_pow_right (by decide) (by omega))

/-- Rounding takes the neighbour m of the fraction from below, or where it lies past the middle the one from above, and
nothing above infinity. -/
theorem roundMag_spec (num : Nat) {den : Nat} (hden : 0 < den) :
    ∃ m, unitsOfMag m * den ≤ num ∧ num < unitsOfMag (m + 1) * den ∧
      (PastMiddle num den m ∧ roundMag num den = min (m + 1) 0x7F800000 ∨
        ¬ PastMiddle num den m ∧ roundMag num den = min m 0x7F800000) := by
  obtain ⟨hs, hq⟩ := scaled_quotient_bounds num den
  simp only [roundMag]
  generalize (num / den).log2 - 23 = s at *
  have hdiv := Nat.div_add_mod num (den * 2 ^ s)
  have hmod := Nat.mod_lt num (show 0 < den * 2 ^ s by positivity)
  generalize num / (den * 2 ^ s) = q at *
  generalize num % (den * 2 ^ s) = r at *
  have hlow : unitsOfMag (s * 2 ^ 23 + q) * den = den * 2 ^ s * q := by rw [unitsOfMag_add hs hq.le]; ring
  have hhigh : unitsOfMag (s * 2 ^ 23 + q + 1) * den = den * 2 ^ s * q + den * 2 ^ s := by
    rw [add_assoc, unitsOfMag_add (q := q + 1) (by omega) hq]; ring
  have hmiddle : PastMiddle num den (s * 2 ^ 23 + q) ↔
      den * 2 ^ s < 2 * r ∨ (2 * r = den * 2 ^ s ∧ q % 2 = 1) := by
    unfold PastMiddle
    rw [add_mul, hlow, hhigh]
    omega
  refine ⟨s * 2 ^ 23 + q, by omega, by omega, ?_⟩
  rw [hmiddle]
  by_cases hup : den * 2 ^ s < 2 * r ∨ (2 * r = den * 2 ^ s ∧ q % 2 = 1)
  · exact .inl ⟨hup, by rw [if_pos hup, add_assoc]⟩
  · exact .inr ⟨hup, by rw [if_neg hup]⟩

theorem roundMag_le_infinity (num den : Nat) : roundMag num den ≤ 0x7F800000 := min_le_right _ _

theorem fmag_roundUnits (neg : Bool) (num den : Nat) : fmag (roundUnits neg num den) = roundMag num den :=
  fmag_withSign neg ((roundMag_le_infinity num den).trans_lt (by decide))

theorem fsign_roundUnits (neg : Bool) (num den : Nat) : fsign (roundUnits neg num den) = neg :=
  fsign_withSign neg ((roundMag_le_infinity num den).trans_lt (by decide))

theorem fisNaN_roundUnits (neg : Bool) (num den : Nat) : fisNaN (roundUnits neg num den) = false := by
  have h := roundMag_le_infinity num den
  simp only [fisNaN, fmag_roundUnits, decide_eq_false_iff_not]
  omega

/-! ## What follows -/

/-- The result is infinite exactly from the middle between the largest finite value and the next power of two on. -/
theorem roundMag_eq_infinity_iff (num : Nat) {den : Nat} (hden : 0 < den) :
    roundMag num den = 0x7F800000 ↔ (2 ^ 25 - 1) * 2 ^ 252 * den ≤ num := by
  obtain ⟨m, hlow, hhigh, hround⟩ := roundMag_spec num hden
  have hmax : unitsOfMag 0x7F7FFFFF * den = (2 ^ 24 - 1) * 2 ^ 253 * den := by rw [unitsOfMag_maxFinite]
  have hinf : unitsOfMag 0x7F800000 * den = 2 ^ 24 * 2 ^ 253 * den := by rw [unitsOfMag_infinity]
  obtain hm | rfl | hm : m + 1 ≤ 0x7F7FFFFF ∨ m = 0x7F7FFFFF ∨ 0x7F800000 ≤ m := by omega
  · have := Nat.mul_le_mul_right den (unitsOfMag_strictMono.monotone hm)
    omega
  · simp only [PastMiddle, Nat.reduceAdd, Nat.reduceMod, and_true, add_mul, hmax, hinf] at hround hhigh
    omega
  · have := Nat.mul_le_mul_right den (unitsOfMag_strictMono.monotone hm)
    omega

/-- No value is nearer than the finite result, and where another is as near the result is even. -/
theorem roundMag_nearest (num : Nat) {den : Nat} (hden : 0 < den) (hfin : roundMag num den < 0x7F800000) (k : Nat) :
    ((unitsOfMag (roundMag num den) : Int) * den - num).natAbs ≤ ((unitsOfMag k : Int) * den - num).natAbs ∧
    (((unitsOfMag (roundMag num den) : Int) * den - num).natAbs = ((unitsOfMag k : Int) * den - num).natAbs →
      k ≠ roundMag num den → roundMag num den % 2 = 0) := by
  obtain ⟨m, hlow, hhigh, hround⟩ := roundMag_spec num hden
  have hmono {a b : Nat} (h : a < b) : unitsOfMag a * den < unitsOfMag b * den :=
    Nat.mul_lt_mul_of_pos_right (unitsOfMag_strictMono h) hden
  have hk : k < m ∧ unitsOfMag k * den < unitsOfMag m * den ∨ k = m ∨ k = m + 1 ∨
      m + 1 < k ∧ unitsOfMag (m + 1) * den < unitsOfMag k * den := by
    obtain h | h | h | h : k < m ∨ k = m ∨ k = m + 1 ∨ m + 1 < k := by omega
    · exact .inl ⟨h, hmono h⟩
    · exact .inr (.inl h)
    · exact .inr (.inr (.inl h))
    · exact .inr (.inr (.inr ⟨h, hmono h⟩))
  simp only [PastMiddle, add_mul] at hround
  obtain ⟨hmiddle, hr⟩ | ⟨hmiddle, hr⟩ := hround
  · obtain hr : roundMag num den = m + 1 := by omega
    rw [hr]
    obtain h | rfl | rfl | h := hk <;> omega
  · obtain hr : roundMag num den = m := by omega
    rw [hr]
    obtain h | rfl | rfl | h := hk <;> omega

/-- Settles O32: each part is read off `roundMag_spec`, by the strict monotonicity of `unitsOfMag`. -/
theorem roundToNearestEven : Obligations.RoundToNearestEven := by
  intro neg num den hden r
  have hmag : fmag r = roundMag num den := fmag_roundUnits neg num den
  refine ⟨fsign_roundUnits neg num den, fisNaN_roundUnits neg num den, ?_, fun hfin y _ => ?_⟩
  · rw [fisInf, hmag, beq_iff_eq, roundMag_eq_infinity_iff num hden]
  · rw [ffinite, hmag, decide_eq_true_iff] at hfin
    rw [magUnits_eq r, magUnits_eq y, hmag]
    exact roundMag_nearest num hden hfin (fmag y)

/-- Rounding does not pass a value that the fraction does not pass. -/
theorem roundMag_le {num den k : Nat} (hden : 0 < den) (h : num ≤ unitsOfMag k * den) : roundMag num den ≤ k := by
  obtain ⟨m, hlow, hhigh, hround⟩ := roundMag_spec num hden
  have hmk : m ≤ k := unitsOfMag_strictMono.le_iff_le.mp (Nat.le_of_mul_le_mul_right (hlow.trans h) hden)
  obtain rfl | hlt := hmk.eq_or_lt
  · simp only [PastMiddle, add_mul] at hround
    omega
  · omega

/-- Rounding a value gives that value. -/
theorem roundMag_unitsOfMag {k : Nat} (hk : k ≤ 0x7F800000) : roundMag (unitsOfMag k) 1 = k := by
  obtain ⟨m, hlow, hhigh, hround⟩ := roundMag_spec (unitsOfMag k) one_pos
  rw [mul_one] at hlow hhigh
  have hmk : m ≤ k := unitsOfMag_strictMono.le_iff_le.mp hlow
  have hkm : k < m + 1 := unitsOfMag_strictMono.lt_iff_lt.mp hhigh
  obtain rfl : m = k := by omega
  simp only [PastMiddle] at hround
  omega

end Sys2Proof.Machine
end

section
/-!
PROOFS. The range of the phase wraps (00_scope.md R16). The floor of a finite value is itself a binary32 value, so that
x − floor(x) is rounded from an exact difference in [0, 1), and rounding is monotone.
-/

namespace Sys2Proof.Machine

/-! ## Negation and difference of finite values -/

theorem ffinite_iff (x : F32) : ffinite x = true ↔ fmag x < 0x7F800000 := decide_eq_true_iff

theorem fisNaN_of_ffinite {x : F32} (h : ffinite x = true) : fisNaN x = false := by
  have := (ffinite_iff x).mp h
  simp only [fisNaN, decide_eq_false_iff_not]
  omega

theorem fisInf_of_ffinite {x : F32} (h : ffinite x = true) : fisInf x = false := by
  have := (ffinite_iff x).mp h
  simp only [fisInf, beq_eq_false_iff_ne]
  omega

theorem fmag_fneg (x : F32) : fmag (fneg x) = fmag x := by
  rw [fmag, fneg, BitVec.toNat_xor, Nat.xor_mod_two_pow]
  exact Nat.xor_zero _

theorem fsign_fneg (x : F32) : fsign (fneg x) = !fsign x := by
  rw [fsign, fneg, BitVec.msb_xor]
  exact Bool.xor_true _

theorem ffinite_fneg (x : F32) : ffinite (fneg x) = ffinite x := by simp only [ffinite, fmag_fneg]

theorem units_fneg (x : F32) : units (fneg x) = -units x := by
  cases h : fsign x <;> simp [units, fsign_fneg, magUnits_eq, fmag_fneg, h]

/-- The difference of finite values is a number: the exact difference rounded, with its sign. -/
theorem fsub_of_finite {a b : F32} (ha : ffinite a = true) (hb : ffinite b = true) :
    fisNaN (fsub a b) = false ∧ fmag (fsub a b) = roundMag (units a - units b).natAbs 1 ∧
      (units a - units b ≠ 0 → fsign (fsub a b) = decide (units a - units b < 0)) := by
  have hb' : ffinite (fneg b) = true := (ffinite_fneg b).trans hb
  simp only [fsub, fadd, fisNaN_of_ffinite ha, fisNaN_of_ffinite hb', fisInf_of_ffinite ha, fisInf_of_ffinite hb',
    units_fneg, ← sub_eq_add_neg, Bool.or_self, Bool.false_eq_true, if_false]
  by_cases h : units a - units b = 0
  · rw [if_pos h, h]
    have hmag := fmag_withSign (fsign a && fsign (fneg b)) (m := 0) (by decide)
    refine ⟨?_, hmag.trans (roundMag_unitsOfMag (k := 0) (by decide)).symm, fun hne => absurd rfl hne⟩
    simp [fisNaN, hmag]
  · rw [if_neg h]
    exact ⟨fisNaN_roundUnits .., fmag_roundUnits .., fun _ => fsign_roundUnits ..⟩

/-! ## The floor of a finite value -/

theorem floorInt_eq (x : F32) : floorInt x = units x / 2 ^ 149 := rfl

/-- Every product of a number up to 2^24 and a power of two is a value. -/
theorem exists_unitsOfMag_eq {a : Nat} (ha : a ≤ 2 ^ 24) (j : Nat) : ∃ k, unitsOfMag k = a * 2 ^ j := by
  induction j generalizing a with
  | zero => exact ⟨0 * 2 ^ 23 + a, unitsOfMag_add (.inl rfl) ha⟩
  | succ j ih =>
    obtain h | h := Nat.lt_or_ge a (2 ^ 23)
    · obtain ⟨k, hk⟩ := ih (a := 2 * a) (by omega)
      exact ⟨k, hk.trans (by ring)⟩
    · exact ⟨(j + 1) * 2 ^ 23 + a, unitsOfMag_add (.inr h) ha⟩

/-- The magnitude of the floor of a finite value is one of a finite value. -/
theorem exists_unitsOfMag_floor {x : F32} (hx : ffinite x = true) :
    ∃ k < 0x7F800000, unitsOfMag k = (floorInt x).natAbs * 2 ^ 149 := by
  obtain ⟨s, q, hmag, hs, hq⟩ := exists_significand (fmag x)
  have hunits : (units x).natAbs = q * 2 ^ s := by
    rw [← unitsOfMag_add hs hq.le, ← hmag, ← magUnits_eq]
    cases h : fsign x <;> simp [units, h]
  obtain hsmall | hlarge := Nat.lt_or_ge s 149
  · have hbound : q * 2 ^ s < 2 ^ 24 * 2 ^ 148 :=
      Nat.mul_lt_mul_of_lt_of_le hq (Nat.pow_le_pow_right (by decide) (by omega)) (by decide)
    have hfloor : (floorInt x).natAbs ≤ 2 ^ 24 := by rw [floorInt_eq]; omega
    obtain ⟨k, hk⟩ := exists_unitsOfMag_eq hfloor 149
    refine ⟨k, unitsOfMag_strictMono.lt_iff_lt.mp ?_, hk⟩
    rw [hk, unitsOfMag_infinity]
    omega
  · refine ⟨fmag x, (ffinite_iff x).mp hx, ?_⟩
    have hdvd : (2 ^ 149 : Int) ∣ units x := by
      have : 2 ^ 149 ∣ (units x).natAbs := hunits ▸ (pow_dvd_pow 2 hlarge).mul_left q
      exact_mod_cast Int.natCast_dvd.mpr this
    rw [hmag, unitsOfMag_add hs hq.le, ← hunits, ← Int.ediv_mul_cancel hdvd, Int.natAbs_mul]
    rfl

/-- floor(x) of a finite x is finite and holds the integer ⌊x⌋ exactly. -/
theorem ffloor_of_finite {x : F32} (hx : ffinite x = true) :
    ffinite (ffloor x) = true ∧ units (ffloor x) = floorInt x * 2 ^ 149 := by
  simp only [ffloor, hx, Bool.not_true, Bool.false_eq_true, if_false]
  by_cases h : floorInt x = 0
  · have hmag := fmag_withSign (fsign x) (m := 0) (by decide)
    rw [if_pos h, ffinite_iff, units, magUnits_eq, hmag, h]
    simp [unitsOfMag_zero]
  · obtain ⟨k, hk, hval⟩ := exists_unitsOfMag_floor hx
    have hmag : fmag (fofInt (floorInt x)) = k := by
      rw [fofInt, fmag_roundUnits, ← hval, roundMag_unitsOfMag hk.le]
    have hsign : fsign (fofInt (floorInt x)) = decide (floorInt x < 0) := fsign_roundUnits ..
    rw [if_neg h, ffinite_iff, units, magUnits_eq, hmag, hsign, hval]
    refine ⟨hk, ?_⟩
    by_cases hneg : floorInt x < 0 <;> simp only [hneg, decide_true, decide_false, if_true, if_false,
      Bool.false_eq_true] <;> omega

/-! ## The wraps -/

/-- x − floor(x) lies in [0, 1]; it can round to 1. -/
theorem fsub_ffloor_bounds {x : F32} (hx : ffinite x = true) :
    fisNaN (fsub x (ffloor x)) = false ∧ 0 ≤ fkey (fsub x (ffloor x)) ∧ fkey (fsub x (ffloor x)) ≤ 0x3F800000 := by
  obtain ⟨hfin, hval⟩ := ffloor_of_finite hx
  obtain ⟨hnum, hmag, hsign⟩ := fsub_of_finite hx hfin
  have hdiff : 0 ≤ units x - units (ffloor x) ∧ units x - units (ffloor x) < 2 ^ 149 := by
    rw [hval, floorInt_eq]; omega
  have hle : fmag (fsub x (ffloor x)) ≤ 0x3F800000 := by
    rw [hmag]
    exact roundMag_le one_pos (by rw [unitsOfMag_one]; omega)
  refine ⟨hnum, ?_⟩
  by_cases hzero : units x - units (ffloor x) = 0
  · have : fmag (fsub x (ffloor x)) = 0 := by
      rw [hmag, hzero]
      exact roundMag_unitsOfMag (k := 0) (by decide)
    simp [fkey, this]
  · have hpos : fsign (fsub x (ffloor x)) = false := by rw [hsign hzero, decide_eq_false_iff_not]; omega
    simp only [fkey, hpos, Bool.false_eq_true, if_false]
    omega

theorem fkey_zero : fkey Config.zero = 0 := rfl
theorem fkey_half : fkey Config.half = 0x3F000000 := rfl
theorem fkey_one : fkey Config.one = 0x3F800000 := rfl

/-- wrap(x) lies in [0, 1). -/
theorem wrap_bounds {x : F32} (hx : ffinite x = true) :
    fisNaN (wrap x) = false ∧ 0 ≤ fkey (wrap x) ∧ fkey (wrap x) < 0x3F800000 := by
  obtain ⟨hnum, hlow, hhigh⟩ := fsub_ffloor_bounds hx
  simp only [wrap]
  by_cases hone : fle Config.one (fsub x (ffloor x)) = true
  · rw [if_pos hone]
    exact ⟨rfl, by decide, by decide⟩
  · rw [if_neg hone]
    rw [fle_iff, fkey_one] at hone
    exact ⟨hnum, hlow, lt_of_not_ge fun h => hone ⟨rfl, hnum, h⟩⟩

theorem wrapShortest_eq (x : F32) :
    wrapShortest x = if fle Config.half (wrap x) then fsub (wrap x) Config.one else wrap x := rfl

/-- e − 1 lies in [−0.5, 0] for an e in [0.5, 1). -/
theorem fsub_one_bounds {e : F32} (hlow : 0x3F000000 ≤ fkey e) (hhigh : fkey e < 0x3F800000) :
    fisNaN (fsub e Config.one) = false ∧ -0x3F000000 ≤ fkey (fsub e Config.one) ∧ fkey (fsub e Config.one) ≤ 0 := by
  have hpos : fsign e = false := by
    by_contra h
    rw [Bool.not_eq_false] at h
    simp only [fkey, h, if_true] at hlow
    omega
  simp only [fkey, hpos, Bool.false_eq_true, if_false] at hlow hhigh
  have hfin : ffinite e = true := (ffinite_iff e).mpr (by omega)
  have hunits : units e = unitsOfMag (fmag e) := by simp [units, hpos, magUnits_eq]
  have hge := unitsOfMag_strictMono.monotone (show 0x3F000000 ≤ fmag e by omega)
  have hlt := unitsOfMag_strictMono (show fmag e < 0x3F800000 by omega)
  rw [unitsOfMag_half] at hge
  rw [unitsOfMag_one] at hlt
  have hone : units Config.one = 2 ^ 149 := congrArg Nat.cast unitsOfMag_one
  obtain ⟨hnum, hmag, hsign⟩ := fsub_of_finite hfin (b := Config.one) rfl
  have hneg : fsign (fsub e Config.one) = true := by
    rw [hsign (by omega), decide_eq_true_iff]
    omega
  have hle : fmag (fsub e Config.one) ≤ 0x3F000000 := by
    rw [hmag]
    exact roundMag_le one_pos (by rw [unitsOfMag_half]; omega)
  refine ⟨hnum, ?_⟩
  simp only [fkey, hneg, if_true]
  omega

/-- wrap_shortest(x) lies in [−0.5, 0.5). -/
theorem wrapShortest_bounds {x : F32} (hx : ffinite x = true) :
    fisNaN (wrapShortest x) = false ∧ -0x3F000000 ≤ fkey (wrapShortest x) ∧ fkey (wrapShortest x) < 0x3F000000 := by
  obtain ⟨hnum, hlow, hhigh⟩ := wrap_bounds hx
  rw [wrapShortest_eq]
  by_cases hhalf : fle Config.half (wrap x) = true
  · rw [if_pos hhalf]
    obtain ⟨_, _, hge⟩ := (fle_iff _ _).mp hhalf
    obtain ⟨hn, hl, hh⟩ := fsub_one_bounds (fkey_half ▸ hge) hhigh
    exact ⟨hn, hl, by omega⟩
  · rw [if_neg hhalf]
    rw [fle_iff, fkey_half] at hhalf
    exact ⟨hnum, by omega, lt_of_not_ge fun h => hhalf ⟨rfl, hnum, h⟩⟩

/-- Settles O31: a wrap is a rounded difference in [0, 1] with 1.0 sent to 0.0, and the shortest wrap moves its upper half
by −1. -/
theorem wrapRange : Obligations.WrapRange := by
  intro x hx
  obtain ⟨hnum, hlow, hhigh⟩ := wrap_bounds hx
  obtain ⟨hnumS, hlowS, hhighS⟩ := wrapShortest_bounds hx
  exact ⟨(fle_iff _ _).mpr ⟨rfl, hnum, hlow⟩, (flt_iff _ _).mpr ⟨hnum, rfl, hhigh⟩,
    (fle_iff _ _).mpr ⟨rfl, hnumS, hlowS⟩, (flt_iff _ _).mpr ⟨hnumS, rfl, hhighS⟩⟩

end Sys2Proof.Machine
end

section
/-!
PROOFS. The fractions between which cr_exp is rounded enclose the exponential (00_scope.md R10): the Horner scheme of
`expTail` is the Taylor sum, which is a lower bound, and its last term bounds the rest of the series.
-/

namespace Sys2Proof.Machine

/-- The fraction of `expTail` as a real number. -/
noncomputable def tailValue (p q terms j : Nat) : ℝ := ((expTail p q terms j).1 : ℝ) / (expTail p q terms j).2

theorem expTail_den_mul_factorial (p q terms j : Nat) :
    (expTail p q terms j).2 * j.factorial = q ^ terms * (j + terms).factorial := by
  induction terms generalizing j with
  | zero => simp [expTail]
  | succ n ih =>
    calc (expTail p q (n + 1) j).2 * j.factorial
        = q * ((expTail p q n (j + 1)).2 * (j + 1).factorial) := by
          rw [Nat.factorial_succ]; simp only [expTail]; ring
      _ = q ^ (n + 1) * (j + (n + 1)).factorial := by rw [ih, add_right_comm, add_assoc]; ring

theorem expTail_den_pos {p q : Nat} (hq : 0 < q) (terms j : Nat) : 0 < (expTail p q terms j).2 := by
  have h := expTail_den_mul_factorial p q terms j
  have hpos : 0 < q ^ terms * (j + terms).factorial := by positivity
  exact Nat.pos_of_mul_pos_right (h ▸ hpos)

theorem tailValue_zero (p q j : Nat) : tailValue p q 0 j = 1 := by simp [tailValue, expTail]

theorem tailValue_succ {p q : Nat} (hq : 0 < q) (terms j : Nat) :
    tailValue p q (terms + 1) j = 1 + (p : ℝ) / q / (j + 1) * tailValue p q terms (j + 1) := by
  have hd : ((expTail p q terms (j + 1)).2 : ℝ) ≠ 0 := by exact_mod_cast (expTail_den_pos hq terms (j + 1)).ne'
  have hq' : (q : ℝ) ≠ 0 := by exact_mod_cast hq.ne'
  simp only [tailValue, expTail]
  push_cast
  field_simp

/-- The scheme, scaled by the Taylor term of its index, is the Taylor sum from that term on. -/
theorem taylor_mul_tailValue {p q : Nat} (hq : 0 < q) (terms j : Nat) :
    ((p : ℝ) / q) ^ j / j.factorial * tailValue p q terms j =
      ∑ i ∈ Finset.range (terms + 1), ((p : ℝ) / q) ^ (j + i) / (j + i).factorial := by
  induction terms generalizing j with
  | zero => simp [tailValue_zero]
  | succ n ih =>
    have hnext : ((p : ℝ) / q) ^ j / j.factorial * ((p : ℝ) / q / (j + 1)) =
        ((p : ℝ) / q) ^ (j + 1) / (j + 1).factorial := by
      rw [Nat.factorial_succ, pow_succ]; push_cast; field_simp
    rw [tailValue_succ hq, mul_add, mul_one, ← mul_assoc, hnext, ih, Finset.sum_range_succ' _ (n + 1), add_comm]
    simp only [add_zero, add_assoc, add_comm 1]

theorem tailValue_eq_taylor {p q : Nat} (hq : 0 < q) (terms : Nat) :
    tailValue p q terms 0 = ∑ i ∈ Finset.range (terms + 1), ((p : ℝ) / q) ^ i / i.factorial := by
  simpa using taylor_mul_tailValue hq terms 0

theorem expLower_value (p q : Nat) :
    ((expLower p q).1 : ℝ) / (expLower p q).2 = tailValue p q (expTerms p q) 0 := rfl

theorem expUpper_value (p q : Nat) :
    ((expUpper p q).1 : ℝ) / (expUpper p q).2 =
      tailValue p q (expTerms p q) 0 + ((p : ℝ) / q) ^ expTerms p q / (expTerms p q).factorial := by
  have hden : (expTail p q (expTerms p q) 0).2 = q ^ expTerms p q * (expTerms p q).factorial := by
    simpa using expTail_den_mul_factorial p q (expTerms p q) 0
  simp only [expUpper, tailValue]
  rw [Nat.cast_add, add_div, div_pow, div_div]
  congr 1
  rw [hden]
  push_cast
  rfl

/-- The number of terms is more than twice the argument. -/
theorem two_mul_le_expTerms {p q : Nat} (h : p ≤ 256 * q) : 2 * p ≤ (expTerms p q + 1) * q := by
  unfold expTerms
  split <;> omega

/-- Beyond the term y^n/n!, where n + 1 is at least 2y, the exponential series adds at most that term again. -/
theorem exp_le_taylor_add_last {y : ℝ} (hy : 0 ≤ y) (n : Nat) (hn : 2 * y ≤ n + 1) :
    Real.exp y ≤ ∑ i ∈ Finset.range (n + 1), y ^ i / i.factorial + y ^ n / n.factorial := by
  have hratio : ‖(y : ℂ)‖ / n.succ ≤ 1 / 2 := by
    rw [Complex.norm_real, Real.norm_of_nonneg hy, div_le_iff₀ (by positivity)]
    push_cast
    linarith
  have hrest := Complex.exp_bound' hratio
  have hcast : Complex.exp y - ∑ m ∈ Finset.range n, (y : ℂ) ^ m / m.factorial =
      ((Real.exp y - ∑ m ∈ Finset.range n, y ^ m / m.factorial : ℝ) : ℂ) := by push_cast; rfl
  rw [hcast, Complex.norm_real, Complex.norm_real, Real.norm_of_nonneg hy] at hrest
  have hle := (le_abs_self _).trans hrest
  rw [Finset.sum_range_succ]
  linarith

/-- Settles O33: the lower end is the Taylor sum itself, and the upper end adds its last term again. -/
theorem expEnclosed : Obligations.ExpEnclosed := by
  intro p q hq hp
  have hy : 0 ≤ (p : ℝ) / q := by positivity
  rw [expLower_value, expUpper_value, tailValue_eq_taylor hq]
  refine ⟨Real.sum_le_exp_of_nonneg hy _, exp_le_taylor_add_last hy _ ?_⟩
  rw [mul_div_assoc', div_le_iff₀ (by exact_mod_cast hq)]
  exact_mod_cast two_mul_le_expTerms hp

end Sys2Proof.Machine
end

section
/-!
PROOFS. What every step keeps, said once. `Effect` names the cases of what a command does; a property of states that
reads no register the host writes is kept by every step if the reset state has it, a PRESET store keeps it, and every
effect keeps it.
-/

namespace Sys2Proof.Machine

/-! ## Commands -/

/-- What the rule of a command can have done, one constructor per way. -/
inductive Effect (s : State) : Instr → State → Prop
  | nothing (i : Instr) : Effect s i s
  | prepare {voices : BitVec 8} {block : BitVec 16} (fields : prepareFieldsOk voices block = true)
      (rate : sampleRateOk (argValue s 0) = true) :
      Effect s (.prepare voices block) (deriveGlobals (prepareBase voices block (argValue s 0) s))
  | process {channels : BitVec 8} {n : BitVec 16} (fields : processFieldsOk channels n = true) :
      Effect s (.process channels n) (frameLoop channels.toNat n.toNat s)
  | setParam {a b id : BitVec 8} (p : Param) (number : fisNaN (argValue s 0) = false) :
      Effect s (.setParam a b id) (storeParam p (paramCheck p (argValue s 0)).1 s)
  | getParam {a b id : BitVec 8} (p : Param) : Effect s (.getParam a b id) { s with rdata := param s p }
  | saveParams {a : BitVec 8} {b : BitVec 16} :
      Effect s (.saveParams a b) { s with mem := writePreset s.mem 0 (presetImage s) }
  | commit {a : BitVec 8} {b : BitVec 16} (valid : presetOk s = true) : Effect s (.loadParams a b) (commitPreset s)
  | load {a : BitVec 8} {b : BitVec 16} (valid : presetOk s = true) :
      Effect s (.loadParams a b) (recomputeChanged s (commitPreset s))
  | enqueueOn {r : BitVec 1} {note : BitVec 7} {f : BitVec 1} {ofs : BitVec 15} (kind : EventKind)
      (room : queueFull s = false) : Effect s (.noteOn r note f ofs) (enqueue s kind note ofs)
  | enqueueOff {r : BitVec 1} {note : BitVec 7} {f : BitVec 1} {ofs : BitVec 15} (kind : EventKind)
      (room : queueFull s = false) : Effect s (.noteOff r note f ofs) (enqueue s kind note ofs)
  | noteOnNow {r : BitVec 1} {note : BitVec 7} {b : BitVec 16} (n : BitVec 7) (g : Gesture) :
      Effect s (.noteOnNow r note b) (noteOnExec s n g)
  | noteOnNowOff {r : BitVec 1} {note : BitVec 7} {b : BitVec 16} (n : BitVec 7) (force : Bool) :
      Effect s (.noteOnNow r note b) (noteOffExec s n force)
  | noteOffNow {r : BitVec 1} {note : BitVec 7} {f : BitVec 1} {rest : BitVec 15} (n : BitVec 7) (force : Bool) :
      Effect s (.noteOffNow r note f rest) (noteOffExec s n force)

theorem run_effect {i : Instr} {s t : State} {c : Bool} (h : run i s = .done t c) : Effect s i t := by
  rcases run_done h with rfl | ⟨voices, block, rfl, rfl, hf, hr⟩ | ⟨channels, n, rfl, rfl, hf, _⟩ |
    ⟨a, b, id, p, rfl, _, hx, rfl⟩ | ⟨a, b, id, p, rfl, rfl⟩ | ⟨a, b, rfl, rfl⟩ | ⟨a, b, rfl, hok, ht⟩ |
    ⟨kind, note, ofs, rfl, hq, _, r, f, rfl | rfl⟩ | ⟨note, g, rfl, _, r, b, rfl⟩ |
    ⟨note, f, rfl, _, ⟨r, b, rfl⟩ | ⟨r, b, rest, rfl⟩⟩
  · exact .nothing i
  · exact .prepare hf hr
  · exact .process hf
  · exact .setParam p hx
  · exact .getParam p
  · exact .saveParams
  · obtain ht | ht := ht
    · exact ht ▸ .load hok
    · exact ht ▸ .commit hok
  · exact .enqueueOn kind hq
  · exact .enqueueOff kind hq
  · exact .noteOnNow note g
  · exact .noteOnNowOff note f
  · exact .noteOffNow note f

/-- A command has one of the effects, a failing one none, and ends with a result code. -/
theorem exec_effect {i : Instr} {s t : State} (h : exec i s = .next t) :
    ∃ u c, Effect s i u ∧ t = endCommand u c := by
  rcases exec_cases h with ⟨c, _, rfl⟩ | ⟨u, b, hr, rfl⟩
  · exact ⟨s, c, .nothing i, rfl⟩
  · exact ⟨u, _, run_effect hr, rfl⟩

/-! ## Steps -/

/-- P reads neither a register that the host writes or a command answers in, nor the host's own two fields. -/
def HostBlind (P : State → Prop) : Prop :=
  ∀ s args cmd error result rdata pending response, P s →
    P { s with args := args, cmd := cmd, error := error, result := result, rdata := rdata, pending := pending,
               response := response }

/-- A property of states is kept by every step if the host's registers are nothing to it, the reset state has it, and
PRESET stores and the effects of commands keep it. -/
theorem step_keeps {P : State → Prop} (blind : HostBlind P) (reset : P State.reset)
    (preset : ∀ s a w, presetBase ≤ a → a + 4 ≤ presetEnd → P s → P { s with mem := writeWord s.mem a w })
    (effect : ∀ s i t, Effect s i t → P s → P t) {s t : State} (hs : P s) (h : step s = .next t) : P t := by
  have next : ∀ u, step s = .next u → t = u := fun u he => Host.Outcome.next.inj (h.symm.trans he)
  have store : ∀ cmd rest, P { s with cmd := cmd, pending := rest } := fun cmd rest =>
    blind s s.args cmd s.error s.result s.rdata rest s.response hs
  have ends : ∀ u c, P u → P (endCommand u c) := fun u c =>
    blind u u.args u.cmd (u.error ||| errorBit c) c u.rdata u.pending u.response
  rcases step_cases s with ⟨_, he⟩ | ⟨_, _, _, _, he⟩ | ⟨addr, rest, _, _, he⟩ | ⟨addr, w, rest, _, h4, _, he⟩ |
    ⟨addr, w, rest, i, _, _, _, he⟩ | ⟨addr, w, rest, e, _, _, _, he⟩ | ⟨rest, _, he⟩
  · rw [next _ he]
    exact hs
  · rw [he] at h
    cases h
  · rw [next _ he]
    exact blind s s.args s.cmd s.error s.result s.rdata rest (some (busRead { s with pending := rest } addr.toNat)) hs
  · rw [next _ he]
    rcases busWrite_cases { s with pending := rest } addr.toNat w with hw | hw | ⟨k, hw⟩ | ⟨hw, _⟩ | ⟨hlo, hhi, hw⟩ <;>
      rw [hw]
    · exact store s.cmd rest
    · exact blind s s.args s.cmd (s.error &&& ~~~(w.truncate 8)) s.result s.rdata rest s.response hs
    · exact blind s (s.args.set k w) s.cmd s.error s.result s.rdata rest s.response hs
    · exact store w rest
    · exact preset _ _ w hlo (by unfold presetEnd at *; omega) (store s.cmd rest)
  · rw [he] at h
    obtain ⟨u, c, hu, rfl⟩ := exec_effect h
    exact ends u c (effect _ i u hu (store w rest))
  · rw [next _ he]
    exact ends _ _ (store w rest)
  · rw [next _ he]
    exact blind State.reset State.reset.args State.reset.cmd State.reset.error State.reset.result State.reset.rdata rest
      State.reset.response reset

end Sys2Proof.Machine
end

section
/-!
PROOFS. Which words of the host memory a block and a preset image write (10 R53, R54).
-/

namespace Sys2Proof.Machine

/-- The words of OUT lie inside it. -/
theorem outAddr_window {c k : Nat} (hc : c < Config.maxChannels) (hk : k < Config.maxBlock) :
    outBase ≤ outAddr c k ∧ outAddr c k + 4 ≤ outEnd := by
  simp only [outAddr, outBase, outStride, outEnd, Config.maxChannels, Config.maxBlock] at *
  omega

/-- The words of different frames do not overlap. -/
theorem outAddr_disjoint {k k' : Nat} (hk : k < Config.maxBlock) (hk' : k' < Config.maxBlock) (hne : k ≠ k')
    (c c' : Nat) : outAddr c k + 4 ≤ outAddr c' k' ∨ outAddr c' k' + 4 ≤ outAddr c k := by
  simp only [outAddr, outBase, outStride, Config.maxBlock] at *
  omega

theorem processFieldsOk_bounds {channels : BitVec 8} {n : BitVec 16} (h : processFieldsOk channels n = true) :
    channels.toNat ≤ Config.maxChannels ∧ n.toNat ≤ Config.maxBlock := by
  simp only [processFieldsOk, Bool.and_eq_true, decide_eq_true_eq] at h
  obtain ⟨⟨⟨_, hc⟩, _⟩, hn⟩ := h
  exact ⟨hc, hn⟩

/-- The state in which frame k of a block mixes its voices: the frames before it done and its own events applied. -/
def drained (channels : Nat) (s : State) (k : Nat) : State :=
  drainDue k (frames channels k s).queue (frames channels k s)

/-- Frame k writes its clamped sum to the words of frame k and nothing else of memory. -/
theorem frame_mem (channels k : Nat) (s : State) : (frame channels s k).mem =
    writeOut s.mem channels k (engineClamp (mixVoices (drainDue k s.queue s)).1) := by
  obtain ⟨vs, q, n, hd⟩ := drainDue_frame k s.queue s
  obtain ⟨vs', he⟩ := emitFrame_frame channels k (drainDue k s.queue s)
  rw [frame, he]
  simp only [hd]

/-- A property of memories that writing the words of a block to OUT keeps is kept by the block. -/
theorem frames_mem_keeps {P : Memory → Prop} (channels n : Nat)
    (hw : ∀ m c k x, c < channels → k < n → P m → P (writeWord m (outAddr c k) x)) (s : State) (h : P s.mem) :
    P (frames channels n s).mem := by
  induction n with
  | zero => exact h
  | succ k ih =>
    rw [frames_succ, frame_mem]
    exact writeOut_keeps channels k _ (fun m c hc hm => hw m c k _ hc (Nat.lt_succ_self k) hm) _
      (ih fun m c j x hc hj => hw m c j x hc (Nat.lt_succ_of_lt hj))

/-- A block leaves every byte outside its words of OUT alone. -/
theorem readByte_frames_outside (channels n : Nat) (s : State) (a : Nat)
    (h : ∀ c k, c < channels → k < n → a < outAddr c k ∨ outAddr c k + 4 ≤ a) :
    readByte (frames channels n s).mem a = readByte s.mem a :=
  frames_mem_keeps (P := fun m => readByte m a = readByte s.mem a) channels n
    (fun _ c k _ hc hk hm => (readByte_writeWord_outside _ _ _ _ (h c k hc hk)).trans hm) s rfl

/-- After a block, word k of a channel is what frame k wrote there. -/
theorem readWord_frames {channels n : Nat} (hn : n ≤ Config.maxBlock) (s : State) {c k : Nat} (hc : c < channels)
    (hk : k < n) : readWord (frames channels n s).mem (outAddr c k) =
      engineClamp (mixVoices (drained channels s k)).1 := by
  induction n with
  | zero => omega
  | succ j ih =>
    rw [frames_succ, frame_mem]
    obtain rfl | hlt : k = j ∨ k < j := by omega
    · exact readWord_writeOut _ _ _ _ _ hc
    · rw [← ih (by omega) hlt]
      refine readWord_congr fun b hlo hhi => readByte_writeOut_outside _ _ _ _ _ fun c' _ => ?_
      have := outAddr_disjoint (k := k) (k' := j) (by omega) (by omega) (by omega) c c'
      omega

end Sys2Proof.Machine
end

section
/-!
PROOFS. Which command may change which piece of state (O20). The frame of each effect is a lemma of Laws/; here they are
read field by field, so that an invariant need only look at the commands that write what it reads.
-/

namespace Sys2Proof.Machine

/-- The command `i` may have changed what is different in `t` from `s`; memory is told apart by bytes in
`Effect.bytes`. -/
structure WritesOnly (i : Instr) (s t : State) : Prop where
  args : t.args = s.args
  cmd : t.cmd = s.cmd
  pending : t.pending = s.pending
  response : t.response = s.response
  rdata : t.rdata ≠ s.rdata → ∃ a b id, i = .getParam a b id
  config : (t.sampleRate ≠ s.sampleRate ∨ t.blockSize ≠ s.blockSize ∨ t.maxVoicesCfg ≠ s.maxVoicesCfg ∨
    t.prepared ≠ s.prepared ∨ t.rFast ≠ s.rFast) → ∃ v b, i = .prepare v b
  prepared : s.prepared = true → t.prepared = true
  params : t.params ≠ s.params → (∃ a b id, i = .setParam a b id) ∨ ∃ a b, i = .loadParams a b
  globals : (t.delay ≠ s.delay ∨ t.wgFund ≠ s.wgFund ∨ t.rEff ≠ s.rEff ∨ t.ratio0 ≠ s.ratio0 ∨
    t.ratio1 ≠ s.ratio1) → (∃ v b, i = .prepare v b) ∨ (∃ a b id, i = .setParam a b id) ∨ ∃ a b, i = .loadParams a b
  counters : (t.sampleCount ≠ s.sampleCount ∨ t.clipCount ≠ s.clipCount) →
    (∃ v b, i = .prepare v b) ∨ ∃ c n, i = .process c n
  nextSeq : t.nextSeq ≠ s.nextSeq →
    (∃ v b, i = .prepare v b) ∨ (∃ r n f o, i = .noteOn r n f o) ∨ ∃ r n f o, i = .noteOff r n f o
  queue : t.queue ≠ s.queue → (∃ v b, i = .prepare v b) ∨ (∃ c n, i = .process c n) ∨
    (∃ r n f o, i = .noteOn r n f o) ∨ ∃ r n f o, i = .noteOff r n f o
  triggerCounter : t.triggerCounter ≠ s.triggerCounter →
    (∃ v b, i = .prepare v b) ∨ (∃ c n, i = .process c n) ∨ ∃ r n b, i = .noteOnNow r n b
  voices : t.voices ≠ s.voices → (∃ v b, i = .prepare v b) ∨ (∃ c n, i = .process c n) ∨
    (∃ a b id, i = .setParam a b id) ∨ (∃ a b, i = .loadParams a b) ∨ (∃ r n b, i = .noteOnNow r n b) ∨
    ∃ r n f x, i = .noteOffNow r n f x
  mem : t.mem ≠ s.mem → (∃ v b, i = .prepare v b) ∨ (∃ c n, i = .process c n) ∨ ∃ a b, i = .saveParams a b

/-- A preset load changes the table, the derived globals and the voice table only. -/
theorem load_frame (s : State) : ∃ ps d wf re r0 r1 vs, recomputeChanged s (commitPreset s) =
    { s with params := ps, delay := d, wgFund := wf, rEff := re, ratio0 := r0, ratio1 := r1, voices := vs } := by
  obtain ⟨ps, hc⟩ := commitPreset_frame s
  obtain ⟨d, wf, re, r0, r1, vs, hr⟩ := recomputeChanged_frame s (commitPreset s)
  exact ⟨ps, d, wf, re, r0, r1, vs, by rw [hr, hc]⟩

theorem Effect.writes {s t : State} {i : Instr} (h : Effect s i t) : WritesOnly i s t := by
  cases h with
  | process =>
    obtain ⟨vs, q, k, c, m, hf⟩ := frameLoop_frame _ _ s
    rw [hf]
    constructor <;> simp
  | setParam p =>
    obtain ⟨d, wf, re, r0, r1, vs, hf⟩ := storeParam_frame p _ s
    rw [hf]
    constructor <;> simp
  | commit =>
    obtain ⟨ps, hf⟩ := commitPreset_frame s
    rw [hf]
    constructor <;> simp
  | load =>
    obtain ⟨ps, d, wf, re, r0, r1, vs, hf⟩ := load_frame s
    rw [hf]
    constructor <;> simp
  | noteOnNow n g =>
    obtain ⟨vs, k, hf⟩ := noteOnExec_frame s n g
    rw [hf]
    constructor <;> simp
  | noteOnNowOff n force | noteOffNow n force =>
    rw [noteOffExec_frame]
    constructor <;> simp
  | nothing | prepare | getParam | saveParams | enqueueOn | enqueueOff => constructor <;> simp

/-- The bytes a command may change: those of OUT, and the image that SAVE_PARAMS writes. -/
theorem Effect.bytes {s t : State} {i : Instr} (h : Effect s i t) (a : Nat)
    (hne : readByte t.mem a ≠ readByte s.mem a) :
    (0x10000 ≤ a ∧ a < 0x18000 ∧ ((∃ v b, i = .prepare v b) ∨ ∃ c n, i = .process c n)) ∨
      (0x20000 ≤ a ∧ a < 0x20084 ∧ ∃ x y, i = .saveParams x y) := by
  rcases h.writes.mem fun he => hne (by rw [he]) with ⟨v, b, rfl⟩ | ⟨c, n, rfl⟩ | ⟨x, y, rfl⟩
  · have hin : outBase ≤ a ∧ a < outEnd := by
      by_contra hout
      cases h with
      | nothing => exact hne rfl
      | prepare => exact hne (readByte_clearOut_outside _ _ (by omega))
    exact .inl ⟨hin.1, hin.2, .inl ⟨v, b, rfl⟩⟩
  · have hin : outBase ≤ a ∧ a < outEnd := by
      by_contra hout
      cases h with
      | nothing => exact hne rfl
      | process fields =>
        obtain ⟨hchannels, hframes⟩ := processFieldsOk_bounds fields
        refine hne (readByte_frames_outside _ _ s a fun c k hc hk => ?_)
        have := outAddr_window (c := c) (k := k) (by omega) (by omega)
        omega
    exact .inl ⟨hin.1, hin.2, .inr ⟨c, n, rfl⟩⟩
  · have hin : presetAddr 0 ≤ a ∧ a < presetAddr 33 := by
      by_contra hout
      cases h with
      | nothing => exact hne rfl
      | saveParams =>
        refine hne (readByte_writePreset_outside s.mem 0 _ a ?_)
        rw [presetImage_length, Nat.zero_add]
        omega
    exact .inr ⟨hin.1, hin.2, x, y, rfl⟩

/-- Settles O20: a command changes what its effect does and RESULT and ERROR, and each effect has its frame. -/
theorem onlyTheseCommandsWrite : Obligations.OnlyTheseCommandsWrite := by
  intro i s t h
  obtain ⟨u, c, he, rfl⟩ := exec_effect h
  have hw := he.writes
  exact ⟨hw.args, hw.cmd, hw.pending, hw.response, hw.rdata, hw.config, hw.prepared, hw.params, hw.globals, hw.counters,
    hw.nextSeq, hw.queue, hw.triggerCounter, hw.voices, he.bytes⟩

end Sys2Proof.Machine
end

section
/-!
PROOFS. What a command does to one voice slot. `VoiceKeeps Q` lists the four ways a slot can change; a property of slots
with it is kept by every command. No command but PREPARE changes a slot that is not in use.
-/

namespace Sys2Proof.Machine

/-- Q survives whatever a command does to a slot, PREPARE included. -/
structure VoiceKeeps (Q : Voice → Prop) : Prop where
  setState : ∀ v state forceOff, Q v → Q { v with state := state, forceOff := forceOff }
  trigger : ∀ s note g n v, Q v → Q (triggerVoice s note g n v)
  step : ∀ s v, Q v → Q (voiceStep s v).2
  update : ∀ p s v, Q v → Q (slotUpdate p s v)

/-- MAX_VOICES_CFG is `m`, and slot `j` has the property Q. -/
def SlotHolds (m : Word) (j : Fin 16) (Q : Voice → Prop) (s : State) : Prop := s.maxVoicesCfg = m ∧ Q (voice s j)

section
variable {m : Word} {j : Fin 16} {Q : Voice → Prop}

theorem slotHolds_mapLive (f : Voice → Voice) {s : State} (hf : j.val < m.toNat → ∀ v, Q v → Q (f v))
    (h : SlotHolds m j Q s) : SlotHolds m j Q (mapLive f s) := by
  obtain ⟨rfl, hQ⟩ := h
  refine ⟨mapLive_maxVoicesCfg f s, ?_⟩
  rw [voice_mapLive]
  split
  next hlive =>
    have hu : j.val < s.maxVoicesCfg.toNat := by simpa [inUse] using (Bool.and_eq_true_iff.mp hlive).1
    exact hf hu _ hQ
  next => exact hQ

theorem slotHolds_setVoice {i : Fin 16} {v : Voice} {s : State} (hi : inUse s i = true)
    (hv : j.val < m.toNat → Q (voice s i) → Q v) (h : SlotHolds m j Q s) :
    SlotHolds m j Q (setVoice s i v) := by
  obtain ⟨rfl, hQ⟩ := h
  refine ⟨rfl, ?_⟩
  rw [voice_setVoice]
  split
  next hij =>
    subst hij
    exact hv (by simpa [inUse] using hi) hQ
  next => exact hQ

theorem slotHolds_commitPreset {s : State} (h : SlotHolds m j Q s) : SlotHolds m j Q (commitPreset s) := by
  obtain ⟨ps, he⟩ := commitPreset_frame s
  rw [he]
  exact h

variable (hQ : j.val < m.toNat → VoiceKeeps Q)
include hQ

theorem slotHolds_noteOnExec {s : State} (note : BitVec 7) (g : Gesture) (h : SlotHolds m j Q s) :
    SlotHolds m j Q (noteOnExec s note g) := by
  rcases noteOnExec_cases s note g with ⟨i, t, ha, he⟩ | ⟨_, he⟩ <;> rw [he]
  · exact slotHolds_setVoice (alloc_inUse ha) (fun hj hv => (hQ hj).trigger _ _ _ _ _ hv) h
  · exact h

theorem slotHolds_noteOffExec {s : State} (note : BitVec 7) (force : Bool) (h : SlotHolds m j Q s) :
    SlotHolds m j Q (noteOffExec s note force) := by
  refine slotHolds_mapLive _ (fun hj v hv => ?_) h
  split
  · rw [(release_frame force v).1]
    exact (hQ hj).setState _ _ _ hv
  · exact hv

theorem slotHolds_drainDue {s : State} (n : Nat) (q : List Event) (h : SlotHolds m j Q s) :
    SlotHolds m j Q (drainDue n q s) := by
  refine drainDue_keeps (fun s ev q h => ?_) n q s h
  unfold dispatchEvent
  split
  · exact slotHolds_noteOnExec hQ _ _ h
  · exact slotHolds_noteOffExec hQ _ _ h

theorem slotHolds_frame {s : State} (channels n : Nat) (h : SlotHolds m j Q s) :
    SlotHolds m j Q (frame channels s n) := by
  have hmix : SlotHolds m j Q (mixVoices (drainDue n s.queue s)).2 :=
    mixVoices_keeps (fun _ _ h hu _ => slotHolds_setVoice hu (fun hj hv => (hQ hj).step _ _ hv) h) _
      (slotHolds_drainDue hQ n s.queue h)
  obtain ⟨hm, hv⟩ := hmix
  refine ⟨?_, ?_⟩
  · simp only [frame, emitFrame, hm]
  · rw [frame, voice_emitFrame]
    exact hv

theorem slotHolds_frameLoop {s : State} (channels n : Nat) (h : SlotHolds m j Q s) :
    SlotHolds m j Q (frameLoop channels n s) :=
  frames_induction (P := fun _ t => SlotHolds m j Q t) channels s h (fun n _ ht => slotHolds_frame hQ channels n ht) n

theorem slotHolds_recompute {s : State} (p : Param) (h : SlotHolds m j Q s) : SlotHolds m j Q (recompute p s) := by
  obtain ⟨d, wf, re, r0, r1, hg⟩ := globalUpdate_frame p s
  rw [recompute_eq]
  refine slotHolds_mapLive _ (fun hj v hv => (hQ hj).update p _ v hv) ?_
  rw [hg]
  exact h

theorem slotHolds_storeParam {s : State} (p : Param) (x : F32) (h : SlotHolds m j Q s) :
    SlotHolds m j Q (storeParam p x s) := by
  unfold storeParam
  simp only
  split
  · exact slotHolds_recompute hQ p h
  · exact h

/-- Every command but PREPARE keeps such a property of a slot. -/
theorem Effect.slotHolds {s t : State} {i : Instr} (h : Effect s i t) (hi : ∀ voices block, i ≠ .prepare voices block)
    (hs : SlotHolds m j Q s) : SlotHolds m j Q t := by
  cases h with
  | prepare => exact absurd rfl (hi _ _)
  | process => exact slotHolds_frameLoop hQ _ _ hs
  | setParam p => exact slotHolds_storeParam hQ _ _ hs
  | load => exact recomputeChanged_keeps (fun p _ => slotHolds_recompute hQ p) _ _ (slotHolds_commitPreset hs)
  | commit => exact slotHolds_commitPreset hs
  | noteOnNow n g => exact slotHolds_noteOnExec hQ n g hs
  | noteOnNowOff n force | noteOffNow n force => exact slotHolds_noteOffExec hQ n force hs
  | nothing | getParam | saveParams | enqueueOn | enqueueOff => exact hs

end

theorem voice_prepare (voices : BitVec 8) (block : BitVec 16) (fs : F32) (s : State) (j : Fin 16) :
    voice (deriveGlobals (prepareBase voices block fs s)) j = { voice s j with state := .idle, forceOff := false } := by
  simp [voice, prepareBase]

/-- Every command keeps a property of slots that survives each way a slot can change. -/
theorem Effect.slot {s t : State} {i : Instr} {Q : Voice → Prop} (h : Effect s i t) (hQ : VoiceKeeps Q) (j : Fin 16)
    (hs : Q (voice s j)) : Q (voice t j) := by
  by_cases hi : ∀ voices block, i ≠ .prepare voices block
  · exact (h.slotHolds (fun _ => hQ) hi ⟨rfl, hs⟩).2
  · push Not at hi
    obtain ⟨voices, block, rfl⟩ := hi
    cases h with
    | nothing => exact hs
    | prepare =>
      rw [voice_prepare]
      exact hQ.setState _ _ _ hs

/-- No command but PREPARE changes a slot that is not in use. -/
theorem Effect.slot_unused {s t : State} {i : Instr} (h : Effect s i t)
    (hi : ∀ voices block, i ≠ .prepare voices block) {j : Fin 16} (hj : s.maxVoicesCfg.toNat ≤ j.val) :
    voice t j = voice s j :=
  (h.slotHolds (m := s.maxVoicesCfg) (Q := (· = voice s j)) (fun hlt => absurd hlt (by omega)) hi ⟨rfl, rfl⟩).2

theorem voice_reset (j : Fin 16) : voice State.reset j = Voice.reset := by
  simp [voice, State.reset]

/-- A property of slots that the power-on slot has and every change of a slot keeps is kept by every step. -/
theorem step_keeps_voices {Q : Voice → Prop} (reset : Q Voice.reset) (hQ : VoiceKeeps Q) {s t : State}
    (hs : ∀ j, Q (voice s j)) (h : step s = .next t) : ∀ j, Q (voice t j) :=
  step_keeps (P := fun s => ∀ j, Q (voice s j)) (fun _ _ _ _ _ _ _ _ h => h) (fun j => voice_reset j ▸ reset)
    (fun _ _ _ _ _ h => h) (fun _ _ _ he h j => he.slot hQ j (h j)) hs h

end Sys2Proof.Machine
end

section
/-!
PROOFS. The invariants of a voice slot: its rails (10 R46), its crossfade count (10 R48) and its integrators (10 R44);
and that of M (10 R42), which is stated together with the crossfade count.
-/

namespace Sys2Proof.Machine

/-! ## The parts of a stepped voice (44 R250) -/

/-- The envelope writes e and the state only (44 R251). -/
theorem envStep_frame (s : State) (v : Voice) :
    envStep s v = { v with e := (envStep s v).e, state := (envStep s v).state } := by
  unfold envStep
  split <;> rfl

theorem voiceStep_wg (s : State) (v : Voice) :
    (voiceStep s v).2.wg = (wgStep s (excStep s (drive v) v.exc).1 v.wg).2 := by
  rw [voiceStep, envStep_frame, voiceChain]

theorem voiceStep_pll (s : State) (v : Voice) : (voiceStep s v).2.pll = (pllStep s v.pll).2.2 := by
  rw [voiceStep, envStep_frame, voiceChain]

theorem voiceStep_fmt (s : State) (v : Voice) : ∃ x, (voiceStep s v).2.fmt = (fmtStep x v.fmt).2 := by
  rw [voiceStep, envStep_frame, voiceChain]
  exact ⟨_, rfl⟩

/-! ## Rails -/

/-- Both rails of a slot are legal. -/
def RailsOk (v : Voice) : Prop := RailLegal v.wg.fwd ∧ RailLegal v.wg.bwd

theorem railLegal_nil : RailLegal [] := ⟨storeWf_nil, by simp⟩

theorem railLegal_storeWrite {r : Rail} (h : RailLegal r) (w : BitVec 15) (x : F32) :
    RailLegal (storeWrite r w.toNat x) := by
  obtain ⟨hwf, hcap⟩ := h
  refine ⟨storeWf_storeWrite r _ x hwf, fun c hc => ?_⟩
  rcases mem_storeWrite r _ x c hc with rfl | hc
  · exact w.isLt
  · exact hcap c hc

/-- No recomputation writes a rail (42 R195). -/
theorem slotUpdate_rails (p : Param) (s : State) (v : Voice) :
    (slotUpdate p s v).wg.fwd = v.wg.fwd ∧ (slotUpdate p s v).wg.bwd = v.wg.bwd := by
  cases p <;> exact ⟨rfl, rfl⟩

theorem voiceKeeps_railsOk : VoiceKeeps RailsOk where
  setState _ _ _ h := h
  trigger _ _ _ _ _ _ := ⟨railLegal_nil, railLegal_nil⟩
  step s v h := by
    rw [RailsOk, voiceStep_wg]
    exact ⟨railLegal_storeWrite h.1 _ _, railLegal_storeWrite h.2 _ _⟩
  update p s v h := by
    obtain ⟨hf, hb⟩ := slotUpdate_rails p s v
    rw [RailsOk, hf, hb]
    exact h

theorem railsOk_reset : RailsOk Voice.reset := ⟨railLegal_nil, railLegal_nil⟩

/-- Settles O53: a sample writes each rail at the 15-bit index w, a trigger empties both, and nothing else writes
one. -/
theorem stepKeepsRailsLegal : Obligations.StepKeepsRailsLegal := fun _ _ hs h =>
  step_keeps_voices (Q := RailsOk) railsOk_reset voiceKeeps_railsOk hs h

/-! ## Crossfade counts -/

/-- The crossfade count of a slot is in 0..XF_LEN. -/
def CrossfadeOk (v : Voice) : Prop := v.fmt.xf.toNat ≤ Config.xfLen

@[simp] theorem setBank_xf (m : Formant) (b : BitVec 1) (bank : Bank) : (m.setBank b bank).xf = m.xf := by
  unfold Formant.setBank
  split <;> rfl

/-- A sample counts a running crossfade down by one (43 R225). -/
theorem fmtStep_xf (x : F32) (m : Formant) : (fmtStep x m).2.xf.toNat = m.xf.toNat - 1 := by
  unfold fmtStep
  by_cases h : m.xf = 0
  · simp [h]
  · have hne : m.xf.toNat ≠ 0 := fun h0 => h (BitVec.eq_of_toNat_eq h0)
    have h1 : (1 : BitVec 9).toNat = 1 := rfl
    simp only [h, if_false, BitVec.toNat_sub, h1]
    omega

/-- A horn switch restarts the crossfade; no other recomputation touches its count (43 R226). -/
theorem slotUpdate_xf (p : Param) (s : State) (v : Voice) :
    (slotUpdate p s v).fmt.xf = v.fmt.xf ∨ (slotUpdate p s v).fmt.xf = 256 := by
  have reload : (voiceBankReload s v).fmt.xf = v.fmt.xf := setBank_xf ..
  cases p
  case hornType => exact .inr rfl
  case brightness | warmth | metalness => exact .inl reload
  case customFreq0 | customFreq1 | customFreq2 | customFreq3 => exact .inl reload
  case customGain0 | customGain1 | customGain2 | customGain3 => exact .inl reload
  all_goals exact .inl rfl

theorem voiceKeeps_crossfadeOk : VoiceKeeps CrossfadeOk where
  setState _ _ _ h := h
  trigger _ _ _ _ _ _ := Nat.zero_le _
  step s v h := by
    obtain ⟨x, hx⟩ := voiceStep_fmt s v
    rw [CrossfadeOk, hx, fmtStep_xf]
    exact (Nat.sub_le _ _).trans h
  update p s v h := by
    rw [CrossfadeOk]
    rcases slotUpdate_xf p s v with hx | hx <;> rw [hx]
    · exact h
    · decide

theorem crossfadeOk_reset : CrossfadeOk Voice.reset := Nat.zero_le _

/-! ## Integrators -/

/-- Both integral accumulators of a slot lie in [−I_LIM, I_LIM]. -/
def IntegratorsOk (v : Voice) : Prop :=
  within Config.minusILim Config.iLim v.pll.ch0.integ = true ∧
    within Config.minusILim Config.iLim v.pll.ch1.integ = true

theorem within_fclamp {lo hi : F32} (hlo : fisNaN lo = false) (hhi : fisNaN hi = false) (hle : fkey lo ≤ fkey hi)
    (x : F32) : within lo hi (fclamp x lo hi) = true := by
  obtain ⟨hl, hh⟩ := fclamp_bound x lo hi hlo hhi hle
  rw [within, hl, hh, Bool.and_self]

/-- Step 2 of a channel clamps its accumulator (40 R145). -/
theorem within_channelStep_integ (num den pref : F32) (c : PllChannel) :
    within Config.minusILim Config.iLim (channelStep num den pref c).integ = true :=
  within_fclamp (by decide) (by decide) (by decide) _

theorem integratorsOk_step (s : State) (v : Voice) : IntegratorsOk (voiceStep s v).2 := by
  rw [IntegratorsOk, voiceStep_pll]
  exact ⟨within_channelStep_integ .., within_channelStep_integ ..⟩

/-- A recomputation leaves an accumulator or locks its channel again, the accumulator zero (40 R155). -/
theorem slotUpdate_integ (p : Param) (s : State) (v : Voice) :
    ((slotUpdate p s v).pll.ch0.integ = v.pll.ch0.integ ∨ (slotUpdate p s v).pll.ch0.integ = Config.zero) ∧
      ((slotUpdate p s v).pll.ch1.integ = v.pll.ch1.integ ∨ (slotUpdate p s v).pll.ch1.integ = Config.zero) := by
  cases p
  case sub1Num | sub1Den => exact ⟨.inr rfl, .inl rfl⟩
  case sub2Num | sub2Den => exact ⟨.inl rfl, .inr rfl⟩
  all_goals exact ⟨.inl rfl, .inl rfl⟩

theorem within_iLim_zero : within Config.minusILim Config.iLim Config.zero = true := by decide

theorem voiceKeeps_integratorsOk : VoiceKeeps IntegratorsOk where
  setState _ _ _ h := h
  trigger _ _ _ _ _ _ := ⟨within_iLim_zero, within_iLim_zero⟩
  step s v _ := integratorsOk_step s v
  update p s v h := by
    have keep : ∀ {x y : F32}, within Config.minusILim Config.iLim x = true → y = x ∨ y = Config.zero →
        within Config.minusILim Config.iLim y = true := by
      rintro x y hx (rfl | rfl)
      · exact hx
      · exact within_iLim_zero
    obtain ⟨h0, h1⟩ := slotUpdate_integ p s v
    exact ⟨keep h.1 h0, keep h.2 h1⟩

theorem integratorsOk_reset : IntegratorsOk Voice.reset := ⟨within_iLim_zero, within_iLim_zero⟩

/-- Settles O59: every sample clamps both accumulators, and everything else that writes one zeroes it. -/
theorem stepKeepsIntegratorsBounded : Obligations.StepKeepsIntegratorsBounded := fun _ _ hs h =>
  step_keeps_voices (Q := IntegratorsOk) integratorsOk_reset voiceKeeps_integratorsOk hs h

/-! ## M (10 R42) -/

theorem delayOf_bounds (s : State) : 1 ≤ (delayOf s).toNat ∧ (delayOf s).toNat ≤ Config.cap - 1 := by
  simp only [delayOf, BitVec.toNat_ofNat, Config.cap]
  omega

/-- A recomputation leaves M or derives it. -/
theorem recompute_delay (p : Param) (s : State) :
    (recompute p s).delay = s.delay ∨ ∃ u, (recompute p s).delay = delayOf u := by
  rw [recompute_eq, mapLive_delay]
  cases p
  case lengthMeters => exact .inr ⟨s, rfl⟩
  all_goals exact .inl rfl

theorem delayLegal_recompute (p : Param) (s : State) (h : DelayLegal s) : DelayLegal (recompute p s) := by
  rw [DelayLegal]
  rcases recompute_delay p s with hd | ⟨u, hd⟩ <;> rw [hd]
  · exact h
  · exact delayOf_bounds u

theorem delayLegal_commitPreset (s : State) (h : DelayLegal s) : DelayLegal (commitPreset s) := by
  obtain ⟨ps, he⟩ := commitPreset_frame s
  rw [he]
  exact h

theorem Effect.delayLegal {s t : State} {i : Instr} (he : Effect s i t) (h : DelayLegal s) : DelayLegal t := by
  by_cases hd : t.delay = s.delay
  · rw [DelayLegal, hd]
    exact h
  rcases he.writes.globals (.inl hd) with ⟨v, b, rfl⟩ | ⟨a, b, id, rfl⟩ | ⟨a, b, rfl⟩ <;> cases he
  case nothing => exact h
  case prepare =>
    rw [DelayLegal, deriveGlobals_delay]
    exact delayOf_bounds _
  case setParam =>
    unfold storeParam
    simp only
    split
    · exact delayLegal_recompute _ _ h
    · exact h
  case commit => exact delayLegal_commitPreset s h
  case load => exact recomputeChanged_keeps delayLegal_recompute s _ (delayLegal_commitPreset s h)
  all_goals exact h

theorem delayLegal_reset : DelayLegal State.reset := ⟨le_refl _, by decide⟩

/-- Settles O55: M is derived by a clamp to 1..CAP−1, and a crossfade starts at XF_LEN and is counted down to 0. -/
theorem stepKeepsDelayAndCrossfadeLegal : Obligations.StepKeepsDelayAndCrossfadeLegal := fun _ _ hd hx h =>
  ⟨step_keeps (P := DelayLegal) (fun _ _ _ _ _ _ _ _ h => h) delayLegal_reset (fun _ _ _ _ _ h => h)
      (fun _ _ _ he => he.delayLegal) hd h,
    step_keeps_voices (Q := CrossfadeOk) crossfadeOk_reset voiceKeeps_crossfadeOk hx h⟩

end Sys2Proof.Machine
end

section
/-!
PROOFS. Every step keeps the host memory canonical and inside its windows (10 R53, R54).
-/

namespace Sys2Proof.Machine

theorem memoryLegal_writeWord {m : Memory} {a : Nat} (w : Word)
    (ha : (outBase ≤ a ∧ a + 4 ≤ outEnd) ∨ (presetBase ≤ a ∧ a + 4 ≤ presetEnd))
    (h : m.wf ∧ ∀ c ∈ m, InWindow c.1) : (writeWord m a w).wf ∧ ∀ c ∈ writeWord m a w, InWindow c.1 := by
  obtain ⟨hwf, hwin⟩ := h
  refine ⟨writeWord_wf m a w hwf, fun c hc => ?_⟩
  rcases mem_writeWord m a w c hc with hc | hc
  · unfold InWindow
    omega
  · exact hwin c hc

theorem Effect.memoryLegal {s t : State} {i : Instr} (he : Effect s i t) (h : MemoryLegal s) : MemoryLegal t := by
  by_cases hm : t.mem = s.mem
  · rw [MemoryLegal, hm]
    exact h
  rcases he.writes.mem hm with ⟨v, b, rfl⟩ | ⟨channels, n, rfl⟩ | ⟨a, b, rfl⟩ <;> cases he
  case prepare =>
    obtain ⟨hwf, hwin⟩ := h
    rw [MemoryLegal, deriveGlobals_mem, prepareBase_mem]
    exact ⟨clearOut_wf _ hwf, fun c hc => hwin c (List.mem_filter.mp hc).1⟩
  case process fields =>
    obtain ⟨hchannels, hframes⟩ := processFieldsOk_bounds fields
    exact frames_mem_keeps (P := fun m => m.wf ∧ ∀ c ∈ m, InWindow c.1) _ _
      (fun m c k x hc hk hm => memoryLegal_writeWord x (.inl (outAddr_window (by omega) (by omega))) hm) s h
  case saveParams =>
    refine writePreset_keeps (P := fun m => m.wf ∧ ∀ c ∈ m, InWindow c.1) 64 (fun m i w hi hm => ?_) s.mem 0 _ ?_ h
    · exact memoryLegal_writeWord w (.inr (by simp only [presetAddr, presetBase, presetEnd]; omega)) hm
    · rw [presetImage_length]
      decide
  all_goals exact h

theorem memoryLegal_reset : MemoryLegal State.reset := ⟨storeWf_nil, by simp [State.reset]⟩

/-- Settles O52: the host stores words of PRESET, a block words of OUT, SAVE_PARAMS words of PRESET; PREPARE and reset
only drop bytes. -/
theorem stepKeepsMemoryLegal : Obligations.StepKeepsMemoryLegal := fun _ _ hs h =>
  step_keeps (P := MemoryLegal) (fun _ _ _ _ _ _ _ _ h => h) memoryLegal_reset
    (fun _ _ w hlo hhi => memoryLegal_writeWord w (.inr ⟨hlo, hhi⟩)) (fun _ _ _ he => he.memoryLegal) hs h

end Sys2Proof.Machine
end

section
/-!
PROOFS. The invariants of the configuration, the pool (10 R39) and the event queue (10 R49).
-/

namespace Sys2Proof.Machine

/-! ## Configuration and pool -/

/-- No command but PREPARE changes the configuration (10 R39). -/
theorem Effect.config_eq {s t : State} {i : Instr} (he : Effect s i t)
    (hi : ∀ voices block, i ≠ .prepare voices block) :
    t.prepared = s.prepared ∧ t.sampleRate = s.sampleRate ∧ t.blockSize = s.blockSize ∧
      t.maxVoicesCfg = s.maxVoicesCfg := by
  by_contra hne
  obtain ⟨v, b, rfl⟩ := he.writes.config (by tauto)
  exact hi v b rfl

/-- PREPARE's field checks keep the configuration in range. -/
theorem configLegal_prepare {voices : BitVec 8} {block : BitVec 16} {s : State}
    (fields : prepareFieldsOk voices block = true) (rate : sampleRateOk (argValue s 0) = true) :
    ConfigLegal (deriveGlobals (prepareBase voices block (argValue s 0) s)) := by
  simp only [prepareFieldsOk, Bool.and_eq_true, decide_eq_true_eq] at fields
  obtain ⟨⟨⟨hv1, hv2⟩, hb1⟩, hb2⟩ := fields
  have hv : (voices.zeroExtend 32).toNat = voices.toNat := BitVec.toNat_setWidth_of_le (by decide)
  have hb : (block.zeroExtend 32).toNat = block.toNat := BitVec.toNat_setWidth_of_le (by decide)
  simp only [ConfigLegal, deriveGlobals_maxVoicesCfg, deriveGlobals_blockSize, deriveGlobals_sampleRate,
    prepareBase_maxVoicesCfg, prepareBase_blockSize, prepareBase_sampleRate, hv, hb]
  exact ⟨hv2, hb2, fun _ => ⟨hv1, hb1, rate⟩⟩

theorem Effect.configLegal {s t : State} {i : Instr} (he : Effect s i t) (h : ConfigLegal s) : ConfigLegal t := by
  by_cases hi : ∀ voices block, i ≠ .prepare voices block
  · obtain ⟨hp, hr, hb, hv⟩ := he.config_eq hi
    rw [ConfigLegal, hp, hr, hb, hv]
    exact h
  · push Not at hi
    obtain ⟨voices, block, rfl⟩ := hi
    cases he with
    | nothing => exact h
    | prepare fields rate => exact configLegal_prepare fields rate

theorem Effect.poolLegal {s t : State} {i : Instr} (he : Effect s i t) (h : PoolLegal s) : PoolLegal t := by
  intro j hj
  by_cases hi : ∀ voices block, i ≠ .prepare voices block
  · obtain ⟨_, _, _, hcfg⟩ := he.config_eq hi
    rw [hcfg] at hj
    rw [he.slot_unused hi hj]
    exact h j hj
  · push Not at hi
    obtain ⟨voices, block, rfl⟩ := hi
    cases he with
    | nothing => exact h j hj
    | prepare => rw [voice_prepare]

/-- ACTIVE_COUNT counts slots in use, so it never exceeds MAX_VOICES_CFG (45 R274). -/
theorem activeCount_le (s : State) : activeCount s ≤ s.maxVoicesCfg.toNat := by
  set live := allSlots.filter fun i => inUse s i && (voice s i).active with hlive
  have hnodup : (live.map Fin.val).Nodup := (List.Nodup.filter _ (by decide)).map Fin.val_injective
  have hsub : live.map Fin.val ⊆ List.range s.maxVoicesCfg.toNat := by
    intro k hk
    obtain ⟨i, hi, rfl⟩ := List.mem_map.mp hk
    have hu : inUse s i = true := (Bool.and_eq_true_iff.mp (List.mem_filter.mp hi).2).1
    simpa [inUse] using hu
  calc activeCount s = (live.map Fin.val).length := by rw [List.length_map, hlive, activeCount]
    _ ≤ (List.range s.maxVoicesCfg.toNat).length := (List.subperm_of_subset hnodup hsub).length_le
    _ = s.maxVoicesCfg.toNat := List.length_range

theorem configLegal_reset : ConfigLegal State.reset :=
  ⟨Nat.zero_le _, Nat.zero_le _, fun hfalse => absurd hfalse (by decide)⟩

theorem poolLegal_reset : PoolLegal State.reset := fun j _ => by rw [voice_reset, Voice.reset]

/-- Settles O54: only PREPARE changes the configuration, by checked fields and with every slot Idle; nothing else
changes a slot that is not in use. -/
theorem stepKeepsConfigAndPoolLegal : Obligations.StepKeepsConfigAndPoolLegal := by
  intro s t hc hp h
  have hct : ConfigLegal t := step_keeps (P := ConfigLegal) (fun _ _ _ _ _ _ _ _ h => h) configLegal_reset
    (fun _ _ _ _ _ h => h) (fun _ _ _ he => he.configLegal) hc h
  have hpt : PoolLegal t := step_keeps (P := PoolLegal) (fun _ _ _ _ _ _ _ _ h => h) poolLegal_reset
    (fun _ _ _ _ _ h => h) (fun _ _ _ he => he.poolLegal) hp h
  have hcount : busRead t 0x018 = BitVec.ofNat 32 (activeCount t) := rfl
  have hcfg : busRead t 0x02C = t.maxVoicesCfg := rfl
  rw [hcount, hcfg]
  refine ⟨hct, hpt, ?_, hct.1⟩
  exact (Nat.mod_le _ _).trans (activeCount_le t)

/-! ## Event queue -/

/-- The queue is ordered by offset and holds no event due before frame n. -/
def DueFrom (n : Nat) (q : List Event) : Prop :=
  (q.Pairwise fun a b => a.offset ≤ b.offset) ∧ ∀ ev ∈ q, n ≤ ev.offset.toNat

/-- With the events due at frame n drained, none before frame n + 1 is left. -/
theorem dueFrom_dropWhile {n : Nat} {q : List Event} (h : DueFrom n q) :
    DueFrom (n + 1) (q.dropWhile fun ev => ev.offset.toNat = n) := by
  induction q with
  | nil => exact ⟨List.Pairwise.nil, by simp⟩
  | cons ev rest ih =>
    obtain ⟨hsorted, hdue⟩ := h
    obtain ⟨hev, hrest⟩ := List.pairwise_cons.mp hsorted
    have hn : n ≤ ev.offset.toNat := hdue ev (by simp)
    by_cases he : ev.offset.toNat = n
    · rw [List.dropWhile_cons_of_pos (by simpa using he)]
      exact ih ⟨hrest, fun r hr => hdue r (by simp [hr])⟩
    · rw [List.dropWhile_cons_of_neg (by simpa using he)]
      refine ⟨hsorted, fun r hr => ?_⟩
      rcases List.mem_cons.mp hr with rfl | hr
      · omega
      · have : ev.offset.toNat ≤ r.offset.toNat := hev r hr
        omega

/-- After n frames the queue is a tail of what it was, none of it due before frame n. -/
theorem frames_queue (channels n : Nat) {s : State} (h : QueueLegal s) :
    DueFrom n (frames channels n s).queue ∧ (frames channels n s).queue.length ≤ Config.eqCap := by
  refine frames_induction (P := fun n t => DueFrom n t.queue ∧ t.queue.length ≤ Config.eqCap) channels s
    ⟨⟨h.2, fun _ _ => Nat.zero_le _⟩, h.1⟩ (fun n t ⟨hdue, hlen⟩ => ?_) n
  rw [frame_queue]
  exact ⟨dueFrom_dropWhile hdue, (List.length_dropWhile_le _ _).trans hlen⟩

/-- The carry-over subtracts n from offsets that are at least n, and so keeps their order (45 R282). -/
theorem queueLegal_carryOver {n : Nat} (hn : n ≤ Config.maxBlock) {s : State} (hdue : DueFrom n s.queue)
    (hlen : s.queue.length ≤ Config.eqCap) : QueueLegal (carryOver n s) := by
  obtain ⟨hsorted, hge⟩ := hdue
  have hsub : ∀ ev ∈ s.queue, (ev.offset - BitVec.ofNat 15 n).toNat = ev.offset.toNat - n := by
    intro ev hev
    have := hge ev hev
    simp only [Config.maxBlock] at hn
    rw [BitVec.toNat_sub, BitVec.toNat_ofNat]
    omega
  rw [QueueLegal, carryOver_queue]
  refine ⟨by simpa using hlen, List.pairwise_map.mpr (hsorted.imp_of_mem fun ha hb hab => ?_)⟩
  have : _ ≤ _ := hab
  rw [BitVec.le_def] at this ⊢
  rw [hsub _ ha, hsub _ hb]
  omega

theorem pairwise_insertEvent (ev : Event) {q : List Event} (h : q.Pairwise fun a b => a.offset ≤ b.offset) :
    (insertEvent ev q).Pairwise fun a b => a.offset ≤ b.offset := by
  have hafter : ∀ {r : Event}, r ∈ q.filter (fun r => !(r.offset ≤ ev.offset)) → ev.offset ≤ r.offset := by
    intro r hr
    have hnot : ¬ r.offset ≤ ev.offset := by simpa using (List.mem_filter.mp hr).2
    exact (BitVec.le_total ev.offset r.offset).resolve_right hnot
  have hbefore : ∀ {r : Event}, r ∈ q.filter (fun r => r.offset ≤ ev.offset) → r.offset ≤ ev.offset := fun hr => by
    simpa using (List.mem_filter.mp hr).2
  rw [insertEvent_sorted ev q h]
  refine List.pairwise_append.mpr
    ⟨h.filter _, List.pairwise_cons.mpr ⟨fun _ => hafter, h.filter _⟩, fun a ha b hb => ?_⟩
  rcases List.mem_cons.mp hb with rfl | hb
  · exact hbefore ha
  · exact BitVec.le_trans (hbefore ha) (hafter hb)

theorem queueLegal_enqueue {s : State} (kind : EventKind) (note : BitVec 7) (ofs : BitVec 15)
    (room : queueFull s = false) (h : QueueLegal s) : QueueLegal (enqueue s kind note ofs) := by
  have hroom : s.queue.length < Config.eqCap := by simpa [queueFull] using room
  refine ⟨?_, pairwise_insertEvent _ h.2⟩
  rw [enqueue_queue, insertEvent_length]
  exact hroom

theorem Effect.queueLegal {s t : State} {i : Instr} (he : Effect s i t) (h : QueueLegal s) : QueueLegal t := by
  by_cases hq : t.queue = s.queue
  · rw [QueueLegal, hq]
    exact h
  rcases he.writes.queue hq with ⟨v, b, rfl⟩ | ⟨channels, n, rfl⟩ | ⟨r, n, f, o, rfl⟩ | ⟨r, n, f, o, rfl⟩ <;> cases he
  case prepare => exact ⟨Nat.zero_le _, List.Pairwise.nil⟩
  case process fields =>
    obtain ⟨hdue, hlen⟩ := frames_queue channels.toNat n.toNat h
    exact queueLegal_carryOver (processFieldsOk_bounds fields).2 hdue hlen
  case enqueueOn kind room => exact queueLegal_enqueue kind n o room h
  case enqueueOff kind room => exact queueLegal_enqueue kind n o room h
  all_goals exact h

theorem queueLegal_reset : QueueLegal State.reset := ⟨Nat.zero_le _, List.Pairwise.nil⟩

/-- Settles O56: an event is enqueued in order and only where there is room, and a block drains a front of the queue
and lowers every offset left by the same amount. -/
theorem stepKeepsQueueLegal : Obligations.StepKeepsQueueLegal := fun _ _ hs h =>
  step_keeps (P := QueueLegal) (fun _ _ _ _ _ _ _ _ h => h) queueLegal_reset (fun _ _ _ _ _ h => h)
    (fun _ _ _ he => he.queueLegal) hs h

end Sys2Proof.Machine
end

section
/-!
PROOFS. The parameter table holds values of the parameters' domains (10 R40): both ways a command writes it, the clamp
of PARAM_CHECK and the check of a preset word, leave such a value.
-/

namespace Sys2Proof.Machine

/-! ## Zeros -/

theorem fkey_of_fmag_zero {x : F32} (h : fmag x = 0) : fkey x = 0 := by
  simp [fkey, h]

/-- Numbers of equal key, zeros apart, are the same encoding. -/
theorem eq_of_fkey_eq {x y : F32} (h : fkey x = fkey y) (hx : fmag x ≠ 0) : x = y := by
  have hsx : fsign x = decide (2 ^ 31 ≤ x.toNat) := BitVec.msb_eq_decide x
  have hsy : fsign y = decide (2 ^ 31 ≤ y.toNat) := BitVec.msb_eq_decide y
  have hlx := x.isLt
  have hly := y.isLt
  apply BitVec.eq_of_toNat_eq
  simp only [fkey, fmag, hsx, hsy, decide_eq_true_eq] at h hx
  split at h <;> split at h <;> omega

theorem fplusZero_cases (x : F32) : (fmag x = 0 ∧ fplusZero x = Config.zero) ∨ (fmag x ≠ 0 ∧ fplusZero x = x) := by
  by_cases h : fmag x = 0
  · exact .inl ⟨h, by simp [fplusZero, h]⟩
  · exact .inr ⟨h, by simp [fplusZero, h]⟩

/-- Turning −0.0 into +0.0 keeps the number. -/
theorem fkey_fplusZero (x : F32) : fkey (fplusZero x) = fkey x := by
  rcases fplusZero_cases x with ⟨h, he⟩ | ⟨_, he⟩ <;> rw [he]
  rw [fkey_of_fmag_zero h, fkey_zero]

theorem fisNaN_fplusZero {x : F32} (h : fisNaN x = false) : fisNaN (fplusZero x) = false := by
  rcases fplusZero_cases x with ⟨_, he⟩ | ⟨_, he⟩ <;> rw [he]
  · decide
  · exact h

theorem fplusZero_ne_minusZero (x : F32) : fplusZero x ≠ 0x80000000#32 := by
  rcases fplusZero_cases x with ⟨_, he⟩ | ⟨h, he⟩ <;> rw [he]
  · decide
  · rintro rfl
    exact h (by decide)

/-! ## What the table may hold -/

theorem paramRow_numbers (p : Param) : fisNaN (paramRow p).lo = false ∧ fisNaN (paramRow p).hi = false ∧
    fkey (paramRow p).lo ≤ fkey (paramRow p).hi := by
  cases p <;> decide

/-- A number in the domain, integral where the kind asks for it, may be stored with a zero as +0.0. -/
theorem paramStored_fplusZero {p : Param} {x : F32} (hnum : fisNaN x = false) (hlo : fkey (paramRow p).lo ≤ fkey x)
    (hhi : fkey x ≤ fkey (paramRow p).hi)
    (hint : paramIntegral p = true → frne (fplusZero x) = fplusZero x) : paramStored p (fplusZero x) = true := by
  obtain ⟨hnlo, hnhi, _⟩ := paramRow_numbers p
  have hn := fisNaN_fplusZero hnum
  have hl : fle (paramRow p).lo (fplusZero x) = true := (fle_iff _ _).mpr ⟨hnlo, hn, by rwa [fkey_fplusZero]⟩
  have hh : fle (fplusZero x) (paramRow p).hi = true := (fle_iff _ _).mpr ⟨hn, hnhi, by rwa [fkey_fplusZero]⟩
  simp only [paramStored, hl, hh, Bool.and_true, Bool.true_and, Bool.and_eq_true, bne_iff_ne, Bool.or_eq_true,
    Bool.not_eq_true', beq_iff_eq]
  exact ⟨fplusZero_ne_minusZero x, (Bool.eq_false_or_eq_true _).symm.imp_right hint⟩

/-! ## Preset words (45 R301) -/

/-- A valid preset word may be stored. -/
theorem paramStored_of_presetValid {p : Param} {x : F32} (h : presetValid p x = true) :
    paramStored p (fplusZero x) = true := by
  obtain ⟨hnlo, hnhi, _⟩ := paramRow_numbers p
  simp only [presetValid, Bool.and_eq_true, Bool.not_eq_true', Bool.or_eq_true] at h
  obtain ⟨⟨⟨hnum, hlo⟩, hhi⟩, hint⟩ := h
  have hlo : fkey (paramRow p).lo ≤ fkey x :=
    not_lt.mp fun hlt => absurd ((flt_iff _ _).mpr ⟨hnum, hnlo, hlt⟩) (by simp [hlo])
  have hhi : fkey x ≤ fkey (paramRow p).hi :=
    not_lt.mp fun hlt => absurd ((flt_iff _ _).mpr ⟨hnhi, hnum, hlt⟩) (by simp [hhi])
  refine paramStored_fplusZero hnum hlo hhi fun hi => ?_
  have hrne : feq x (frne x) = true := hint.resolve_left (by simp [hi])
  obtain ⟨_, _, hkey⟩ := (feq_iff _ _).mp hrne
  rcases fplusZero_cases x with ⟨_, he⟩ | ⟨hne, he⟩ <;> rw [he]
  · decide
  · exact (eq_of_fkey_eq hkey hne).symm

/-! ## Clamped values (45 R302) -/

/-- Clamping a number to an interval of numbers. -/
def clampTo (lo hi y : F32) : F32 :=
  let z := if flt y lo then lo else y
  if flt hi z then hi else z

theorem paramCheck_value (p : Param) (x : F32) : (paramCheck p x).1 =
    fplusZero (clampTo (paramRow p).lo (paramRow p).hi (if paramIntegral p then frne x else x)) := rfl

/-- A clamped number is a bound, or the number itself where it lies between them. -/
theorem clampTo_cases {lo hi y : F32} (hlo : fisNaN lo = false) (hhi : fisNaN hi = false) (hy : fisNaN y = false)
    (hle : fkey lo ≤ fkey hi) : clampTo lo hi y = lo ∨ clampTo lo hi y = hi ∨
      (clampTo lo hi y = y ∧ fkey lo ≤ fkey y ∧ fkey y ≤ fkey hi) := by
  simp only [clampTo, flt, hlo, hhi, hy, Bool.not_false, Bool.true_and, decide_eq_true_eq]
  by_cases h1 : fkey y < fkey lo
  · have : ¬ fkey hi < fkey lo := by omega
    exact .inl (by simp [h1, hlo, this])
  · by_cases h2 : fkey hi < fkey y
    · exact .inr (.inl (by simp [h1, hy, h2]))
    · exact .inr (.inr ⟨by simp [h1, h2], by omega, by omega⟩)

/-- Rounding does not fall below a value that the fraction does not fall below. -/
theorem le_roundMag {num den k : Nat} (hden : 0 < den) (hk : k ≤ 0x7F800000) (h : unitsOfMag k * den ≤ num) :
    k ≤ roundMag num den := by
  obtain ⟨m, _, hhigh, hround⟩ := roundMag_spec num hden
  have hkm : k < m + 1 := unitsOfMag_strictMono.lt_iff_lt.mp (Nat.lt_of_mul_lt_mul_right (h.trans_lt hhigh))
  rcases hround with ⟨_, hr⟩ | ⟨_, hr⟩ <;> omega

/-- An integer whose binary32 lies between 0 and 16 is one of 0 to 16. -/
theorem fofInt_range {k : Int} (hlo : 0 ≤ fkey (fofInt k)) (hhi : fkey (fofInt k) ≤ 0x41800000) :
    0 ≤ k ∧ k ≤ 16 := by
  have hmag : fmag (fofInt k) = roundMag (k.natAbs * 2 ^ 149) 1 := fmag_roundUnits ..
  have hsign : fsign (fofInt k) = decide (k < 0) := fsign_roundUnits ..
  have h17 : unitsOfMag 0x41880000 = 17 * 2 ^ 149 := by decide
  by_cases hneg : k < 0
  · have : 0x3F800000 ≤ fmag (fofInt k) := hmag ▸ le_roundMag one_pos (by decide) (by rw [unitsOfMag_one]; omega)
    simp only [fkey, hsign, hneg, decide_true, if_true] at hlo
    omega
  · refine ⟨by omega, not_lt.mp fun hlt => ?_⟩
    have : 0x41880000 ≤ fmag (fofInt k) := hmag ▸ le_roundMag one_pos (by decide) (by rw [h17]; omega)
    simp only [fkey, hsign, hneg, decide_false, Bool.false_eq_true, if_false] at hhi
    omega

theorem frne_fofInt_small : ∀ k : Fin 17, frne (fofInt k.val) = fofInt k.val := by decide

/-- Rounding a value rounded into [0, 16] again changes nothing. -/
theorem frne_frne {x : F32} (hlo : 0 ≤ fkey (frne x)) (hhi : fkey (frne x) ≤ 0x41800000) :
    frne (frne x) = frne x := by
  by_cases hfin : ffinite x = true
  · have hx : frne x = fofInt (rneInt x) := by simp [frne, hfin]
    rw [hx] at hlo hhi ⊢
    obtain ⟨h0, h16⟩ := fofInt_range hlo hhi
    obtain ⟨k, hk⟩ := Int.eq_ofNat_of_zero_le h0
    have := frne_fofInt_small ⟨k, by omega⟩
    rwa [hk]
  · simp [frne, hfin]

theorem fisNaN_frne {x : F32} (h : fisNaN x = false) : fisNaN (frne x) = false := by
  unfold frne
  split
  · exact h
  · exact fisNaN_roundUnits ..

/-- The domains of int and enum parameters lie in [0, 16]. -/
theorem paramRow_integral_range {p : Param} (h : paramIntegral p = true) :
    0 ≤ fkey (paramRow p).lo ∧ fkey (paramRow p).hi ≤ 0x41800000 := by
  revert h
  cases p <;> decide

/-- The domains of int and enum parameters have integral bounds. -/
theorem paramRow_integral_bounds {p : Param} (h : paramIntegral p = true) :
    frne (fplusZero (paramRow p).lo) = fplusZero (paramRow p).lo ∧
      frne (fplusZero (paramRow p).hi) = fplusZero (paramRow p).hi := by
  revert h
  cases p <;> decide

/-- What PARAM_CHECK leaves of a number may be stored. -/
theorem paramStored_paramCheck (p : Param) {x : F32} (hx : fisNaN x = false) :
    paramStored p (paramCheck p x).1 = true := by
  obtain ⟨hnlo, hnhi, hle⟩ := paramRow_numbers p
  set y := if paramIntegral p then frne x else x with hy
  have hny : fisNaN y = false := by
    rw [hy]
    split
    · exact fisNaN_frne hx
    · exact hx
  rw [paramCheck_value, ← hy]
  rcases clampTo_cases hnlo hnhi hny hle with hc | hc | ⟨hc, hlo, hhi⟩ <;> rw [hc]
  · exact paramStored_fplusZero hnlo (le_refl _) hle fun hi => (paramRow_integral_bounds hi).1
  · exact paramStored_fplusZero hnhi hle (le_refl _) fun hi => (paramRow_integral_bounds hi).2
  · refine paramStored_fplusZero hny hlo hhi fun hi => ?_
    obtain ⟨h0, h16⟩ := paramRow_integral_range hi
    rcases fplusZero_cases y with ⟨_, he⟩ | ⟨_, he⟩ <;> rw [he]
    · decide
    · rw [if_pos hi] at hy
      rw [hy] at hlo hhi ⊢
      exact frne_frne (h0.trans hlo) (hhi.trans h16)

/-! ## The invariant -/

theorem param_congr {s t : State} (h : t.params = s.params) (p : Param) : param t p = param s p := by
  simp only [param, h]

theorem paramsLegal_storeParam {p : Param} {x : F32} {s : State} (hx : paramStored p x = true) (h : ParamsLegal s) :
    ParamsLegal (storeParam p x s) := by
  intro q
  obtain ⟨d, wf, re, r0, r1, vs, hf⟩ := storeParam_frame p x s
  have hq : param (storeParam p x s) q = param (setParam s p x) q := param_congr (by rw [hf, setParam_params]) q
  rw [hq]
  by_cases hpq : p = q
  · subst hpq
    rwa [param_setParam_same]
  · rw [param_setParam_other s p q x hpq]
    exact h q

theorem paramsLegal_commitPreset {s : State} (valid : presetOk s = true) : ParamsLegal (commitPreset s) := by
  intro p
  simp only [presetOk, Bool.and_eq_true, List.all_eq_true] at valid
  rw [param_commitPreset]
  exact paramStored_of_presetValid (valid.2 p (allParams_complete p))

theorem paramsLegal_load {s : State} (valid : presetOk s = true) :
    ParamsLegal (recomputeChanged s (commitPreset s)) := by
  intro p
  obtain ⟨d, wf, re, r0, r1, vs, hf⟩ := recomputeChanged_frame s (commitPreset s)
  have htable : (recomputeChanged s (commitPreset s)).params = (commitPreset s).params := by rw [hf]
  rw [param_congr htable]
  exact paramsLegal_commitPreset valid p

theorem Effect.paramsLegal {s t : State} {i : Instr} (he : Effect s i t) (h : ParamsLegal s) : ParamsLegal t := by
  by_cases hp : t.params = s.params
  · intro p
    rw [param_congr hp]
    exact h p
  rcases he.writes.params hp with ⟨a, b, id, rfl⟩ | ⟨a, b, rfl⟩
  · cases he with
    | nothing => exact h
    | setParam p number => exact paramsLegal_storeParam (paramStored_paramCheck p number) h
  · cases he with
    | nothing => exact h
    | commit valid => exact paramsLegal_commitPreset valid
    | load valid => exact paramsLegal_load valid

theorem paramsLegal_reset : ParamsLegal State.reset := by
  intro p
  cases p <;> decide

/-- Settles O57: SET_PARAM stores what PARAM_CHECK leaves, LOAD_PARAMS valid preset words, each with a zero as +0.0. -/
theorem stepKeepsParamsLegal : Obligations.StepKeepsParamsLegal := fun _ _ hs h =>
  step_keeps (P := ParamsLegal) (fun _ _ _ _ _ _ _ _ h => h) paramsLegal_reset (fun _ _ _ _ _ h => h)
    (fun _ _ _ he => he.paramsLegal) hs h

end Sys2Proof.Machine
end

section
/-!
PROOFS. The host's accesses (20 R84 to R93): a read answers the word of its register and a store that is not to CMD
changes one thing.
-/

namespace Sys2Proof.Machine

/-! ## One access -/

theorem step_read {s : State} {addr : Word} {rest : List HostAct} (h : s.pending = .read addr .word :: rest)
    (h4 : addr.toNat % 4 = 0) : step s = .next (hostRead addr { s with pending := rest }) := by
  have hok : accessOk addr .word = true := by simp [accessOk, h4]
  simp only [step, performNext, h, perform, hok, if_true]

theorem step_write {s : State} {addr w : Word} {rest : List HostAct} (h : s.pending = .write addr .word w :: rest)
    (h4 : addr.toNat % 4 = 0) (hcmd : addr.toNat ≠ cmdAddr) :
    step s = .next (busWrite { s with pending := rest } addr.toNat w) := by
  have hok : accessOk addr .word = true := by simp [accessOk, h4]
  simp only [step, performNext, h, perform, hok, if_true, hostWrite, hcmd, if_false]

/-! ## The register map (10 R52) -/

theorem allRegs_complete (r : Reg) : r ∈ allRegs := by
  cases r
  case arg i =>
    revert i
    decide
  all_goals decide

theorem regOffset_injective : ∀ r ∈ allRegs, ∀ r' ∈ allRegs, regOffset r = regOffset r' → r = r' := by decide

theorem regOffset_bounds (r : Reg) : regOffset r % 4 = 0 ∧ regOffset r ≤ cmdAddr := by
  have all : ∀ r ∈ allRegs, regOffset r % 4 = 0 ∧ regOffset r ≤ cmdAddr := by decide
  exact all r (allRegs_complete r)

/-- Each register stands at its offset of the map. -/
theorem regAt_regOffset (r : Reg) : regAt (regOffset r) = some r := by
  cases h : regAt (regOffset r) with
  | none => simpa using List.find?_eq_none.mp h r (allRegs_complete r)
  | some r' =>
    have hoff : regOffset r' = regOffset r := by simpa using List.find?_some h
    rw [regOffset_injective r' (allRegs_complete r') r (allRegs_complete r) hoff]

theorem regionOf_regOffset (r : Reg) : regionOf (regOffset r) = .registers := by
  have := (regOffset_bounds r).2
  simp only [cmdAddr] at this
  exact if_pos (by unfold outBase; omega)

theorem busRead_regOffset (s : State) (r : Reg) : busRead s (regOffset r) = regRead s r := by
  simp only [busRead, regionOf_regOffset, regAt_regOffset]

theorem busWrite_regOffset (s : State) (r : Reg) (w : Word) : busWrite s (regOffset r) w = regWrite s w r := by
  simp only [busWrite, regionOf_regOffset, regAt_regOffset]

theorem toNat_regOffset (r : Reg) : (BitVec.ofNat 32 (regOffset r)).toNat = regOffset r := by
  have := (regOffset_bounds r).2
  simp only [cmdAddr] at this
  rw [BitVec.toNat_ofNat]
  omega

/-- A read of a register answers its word and has no side effect (20 R89). -/
theorem step_read_reg {s : State} {rest : List HostAct} (r : Reg)
    (h : s.pending = .read (BitVec.ofNat 32 (regOffset r)) .word :: rest) :
    step s = .next { s with pending := rest, response := some (regRead s r) } := by
  have hword : regRead { s with pending := rest } r = regRead s r := by cases r <;> rfl
  rw [step_read h (by rw [toNat_regOffset]; exact (regOffset_bounds r).1), hostRead, toNat_regOffset,
    busRead_regOffset, hword]

/-- A write to a register other than CMD stores as the register stores. -/
theorem step_write_reg {s : State} {w : Word} {rest : List HostAct} (r : Reg) (hr : regOffset r ≠ cmdAddr)
    (h : s.pending = .write (BitVec.ofNat 32 (regOffset r)) .word w :: rest) :
    step s = .next (regWrite { s with pending := rest } w r) := by
  rw [step_write h (by rw [toNat_regOffset]; exact (regOffset_bounds r).1) (by rwa [toNat_regOffset]), toNat_regOffset,
    busWrite_regOffset]

/-! ## The words computed at a read -/

/-- STATUS is the sum of its three bits (10 R35). -/
theorem statusWord_eq (s : State) : statusWord s =
    BitVec.ofNat 32 ((if s.prepared then 1 else 0) + (if s.queue.length = 0 then 0 else 2) +
      (if s.queue.length < 64 then 0 else 4)) := by
  have hfull : Config.eqCap ≤ s.queue.length ↔ ¬ s.queue.length < 64 := not_lt.symm
  simp only [statusWord, hfull, ne_eq, ite_not]
  split <;> split <;> split <;> rfl

theorem errorWord_eq (s : State) : errorWord s = BitVec.ofNat 32 s.error.toNat := by
  apply BitVec.eq_of_toNat_eq
  rw [errorWord, BitVec.toNat_setWidth, BitVec.toNat_ofNat]

theorem wgDelay_eq (s : State) : regRead s .wgDelay = BitVec.ofNat 32 s.delay.toNat := by
  apply BitVec.eq_of_toNat_eq
  rw [regRead, BitVec.toNat_setWidth, BitVec.toNat_ofNat]

theorem allSlots_eq_finRange : allSlots = List.finRange 16 := by decide

theorem activeCount_eq (s : State) : activeCount s = (List.finRange 16).countP fun i =>
    decide (i.val < s.maxVoicesCfg.toNat ∧ s.voices[i].state ≠ .idle) := by
  rw [activeCount, ← List.countP_eq_length_filter, allSlots_eq_finRange]
  refine List.countP_congr fun i _ => ?_
  simp [inUse, Voice.active, voice]

/-- Settles O10: each offset of the map is that of a register, whose read answers its word. -/
theorem registerReadsAnswerTheirWord : Obligations.RegisterReadsAnswerTheirWord := by
  intro s rest answers
  have reads : ∀ (r : Reg) (w : Word), regRead s r = w → answers (BitVec.ofNat 32 (regOffset r)) w := by
    rintro r w rfl h
    exact step_read_reg r h
  refine ⟨reads .id _ rfl, reads .version _ rfl, reads .caps _ rfl, reads .caps2 _ rfl,
    reads .status _ (statusWord_eq s), reads .error _ (errorWord_eq s), reads .result _ ?result,
    reads .rdata _ rfl, reads .activeCount _ ?count,
    ⟨activeMask s, reads .activeMask _ rfl, activeMask_above s, ?mask⟩,
    ⟨voiceStateWord s, reads .voiceState _ rfl, ?states⟩, reads .sampleRate _ rfl, reads .blockSize _ rfl,
    reads .maxVoicesCfg _ rfl, reads .eqCount _ rfl, reads .clipCount _ rfl, reads .wgFund _ rfl,
    reads .wgDelay _ (wgDelay_eq s), reads .triggerCounter _ rfl, reads .sampleCountLo _ ?low,
    reads .sampleCountHi _ ?high, fun i => reads (.arg i) _ rfl, reads .cmd _ rfl⟩
  case result => cases h : s.result <;> simp only [regRead, resultWord, h] <;> rfl
  case count => exact congrArg (BitVec.ofNat 32) (activeCount_eq s)
  case mask =>
    intro i
    rw [activeMask_slot, Voice.active]
    exact Bool.eq_iff_iff.mpr (by simp [voice])
  case states =>
    intro i
    rw [voiceStateWord_slot]
    unfold voice
    cases h : s.voices[i].state <;> simp only [VoiceState.num] <;> rfl
  case low =>
    apply BitVec.eq_of_toNat_eq
    simp [regRead, BitVec.extractLsb'_toNat]
  case high =>
    apply BitVec.eq_of_toNat_eq
    simp [regRead, BitVec.extractLsb'_toNat, Nat.shiftRight_eq_div_pow]

/-! ## Stores (10 R31, R36, R54) -/

/-- Clearing the bits of a word in a byte clears them in the word of the byte. -/
theorem zeroExtend_and_not_low (e : BitVec 8) (w : Word) :
    (e &&& ~~~(w.extractLsb' 0 8)).zeroExtend 32 = e.zeroExtend 32 &&& ~~~w := by
  apply BitVec.eq_of_getLsbD_eq
  intro k hk
  by_cases h8 : k < 8
  · simp [hk, h8]
  · simp [hk, h8, BitVec.getLsbD_of_ge e k (by omega)]

/-- Settles O13: the store of each register, and its read afterwards. -/
theorem argAndErrorWrites : Obligations.ArgAndErrorWrites := by
  intro s w rest
  refine ⟨fun i h => ?_, fun h => ?_⟩
  · have hoff : regOffset (.arg i) ≠ cmdAddr := by
      simp only [regOffset, cmdAddr]
      omega
    refine ⟨step_write_reg (.arg i) hoff h, ?_⟩
    exact (busRead_regOffset { s with args := s.args.set i w } (.arg i)).trans (Vector.getElem_set_self _)
  · refine ⟨step_write_reg .error (by decide) h, ?_⟩
    have hread : ∀ u, busRead u 0x00C = errorWord u := fun u => busRead_regOffset u .error
    rw [hread, hread]
    exact zeroExtend_and_not_low s.error w

theorem regionOf_preset {a : Nat} (hlo : presetBase ≤ a) (hhi : a < presetEnd) : regionOf a = .preset := by
  unfold regionOf outBase outEnd
  unfold presetBase presetEnd at *
  rw [if_neg (by omega), if_neg (by omega), if_pos ⟨hlo, hhi⟩]

theorem regionOf_out {a : Nat} (hlo : outBase ≤ a) (hhi : a < outEnd) : regionOf a = .out := by
  unfold regionOf
  rw [if_neg (by omega), if_pos hhi]

/-- A sample is the word of memory at its address (20 R99). -/
theorem outWord_eq (s : State) {c k : Nat} (hc : c < Config.maxChannels) (hk : k < Config.maxBlock) :
    outWord s c k = readWord s.mem (outAddr c k) := by
  have hwindow := outAddr_window hc hk
  have hregion : regionOf (outAddr c k) = .out := regionOf_out hwindow.1 (by omega)
  simp only [outWord, busRead, hregion]

/-- Settles O14: the store is a word store at an aligned address of PRESET. -/
theorem presetWriteReadsBack : Obligations.PresetWriteReadsBack := by
  intro s i w rest hi h
  have haddr : (BitVec.ofNat 32 (0x20000 + 4 * i)).toNat = 0x20000 + 4 * i := by
    rw [BitVec.toNat_ofNat]
    omega
  have hregion : regionOf (0x20000 + 4 * i) = .preset :=
    regionOf_preset (by unfold presetBase; omega) (by unfold presetEnd; omega)
  refine ⟨writeWord s.mem (0x20000 + 4 * i) w, ?_, ?_, fun k => readByte_writeWord_inside s.mem _ w k,
    fun a => readByte_writeWord_outside s.mem _ a w⟩
  · rw [step_write h (by omega) (by unfold cmdAddr; omega), haddr]
    simp only [busWrite, hregion]
  · simp only [busRead, hregion, readWord_writeWord_same]

end Sys2Proof.Machine
end

section
/-!
PROOFS. The block loop computes the frames that Rules.Frame writes out (45_commands.md R283 to R287).
-/

namespace Sys2Proof.Machine

/-! ## The rule's operations and the machine's -/

theorem applied_eq : Rules.applied = dispatchEvent := by
  funext s ev
  unfold Rules.applied dispatchEvent
  cases ev.kind <;> rfl

/-- A slot is live where the machine says it is in use and active. -/
theorem live_iff (s : State) (i : Fin 16) : Rules.Live s i ↔ inUse s i = true ∧ (voice s i).active = true := by
  simp [Rules.Live, inUse, Voice.active]

theorem mixed_eq (s : State) : Rules.mixed s = (mixVoices s).1 := by
  rw [mixVoices_sum, Rules.mixed, allSlots_eq_finRange]
  simp only [live_iff, ← Bool.and_eq_true_iff]

theorem clamped_eq : Rules.clamped = engineClamp := rfl

theorem clipped_eq (count : BitVec 32) (sum : F32) : Rules.clipped count sum = clipAfter count sum := by
  unfold Rules.clipped clipAfter
  rw [clamped_eq]
  by_cases hc : feq (engineClamp sum) sum = true <;> by_cases hmax : count = 0xFFFFFFFF#32 <;> simp [hc, hmax]

/-- Events applied change the voice table and TRIGGER_COUNTER only. -/
theorem foldl_dispatchEvent_frame (l : List Event) (s : State) :
    ∃ vs n, l.foldl dispatchEvent s = { s with voices := vs, triggerCounter := n } := by
  induction l generalizing s with
  | nil => exact ⟨_, _, rfl⟩
  | cons ev rest ih =>
    obtain ⟨vs, n, hd⟩ := dispatchEvent_frame s ev
    obtain ⟨vs', n', h⟩ := ih (dispatchEvent s ev)
    exact ⟨vs', n', by rw [List.foldl_cons, h, hd]⟩

/-! ## The loop -/

theorem drop_length_takeWhile {α : Type} (p : α → Bool) (l : List α) :
    l.drop (l.takeWhile p).length = l.dropWhile p := by
  have h := List.drop_left (l₁ := l.takeWhile p) (l₂ := l.dropWhile p)
  rwa [List.takeWhile_append_dropWhile] at h

/-- A frame of the machine is a frame of the rule. -/
theorem frame_rule (channels n : Nat) (b : State) : Rules.Frame n b (drainDue n b.queue b) (frame channels b n) := by
  refine ⟨?_, ?_, fun i => ?_⟩
  · obtain ⟨vs, k, hf⟩ := foldl_dispatchEvent_frame (b.queue.takeWhile fun ev => ev.offset.toNat = n) b
    rw [drainDue_eq n b.queue b rfl, applied_eq, hf, drop_length_takeWhile]
  · obtain ⟨vs, he⟩ := emitFrame_frame channels n (drainDue n b.queue b)
    rw [frame, he, clipped_eq, mixed_eq]
  · rw [frame, voice_emitFrame, voice_mixVoices]
    simp only [live_iff]

/-- A command that ends with OK leaves ERROR as it is. -/
theorem endCommand_ok (s : State) : endCommand s .ok = { s with result := .ok } := by
  have hbit : s.error ||| errorBit .ok = s.error := by rw [errorBit_ok]; exact BitVec.or_zero
  rw [endCommand, hbit]

/-- The block loop of the machine is the rule's. -/
theorem frames_rule (channels n : Nat) (s : State) :
    Rules.Frames s n (fun k => frames channels k s) (drained channels s) := by
  refine ⟨rfl, fun k _ => ?_⟩
  simp only [frames_succ]
  exact frame_rule channels k (frames channels k s)

/-- A PROCESS that passes its checks runs the block loop and ends with OK (45 R292). -/
theorem exec_process {s : State} {channels : BitVec 8} {n : BitVec 16} (fields : processFieldsOk channels n = true)
    (hprep : s.prepared = true) (hblock : n.toNat ≤ s.blockSize.toNat) :
    exec (.process channels n) s = .next (endCommand (frameLoop channels.toNat n.toNat s) .ok) := by
  have hsize : ¬ s.blockSize.toNat < n.toNat := not_lt.mpr hblock
  rw [exec_run, run, runProcess]
  simp only [fields, hprep, Bool.not_true, Bool.false_eq_true, if_false, hsize, finish_done]

/-- Settles O24: the machine's loop is the rule's (`frames_rule`), and memory after it is read word by word
(`readWord_frames`) and byte by byte (`readByte_frames_outside`). -/
theorem processCompletes : Obligations.ProcessCompletes := by
  intro s channels n hc1 hc2 hn1 hn2 hprep hblock
  have hfields : processFieldsOk channels n = true := by simp [processFieldsOk, hc1, hc2, hn1, hn2]
  refine ⟨endCommand (frameLoop channels.toNat n.toNat s) .ok, fun k => frames channels.toNat k s,
    drained channels.toNat s, exec_process hfields hprep hblock, frames_rule _ _ s, ?_, fun c k hc hk => ?_,
    fun a ha => readByte_frames_outside _ _ s a ha⟩
  · obtain ⟨vs, q, t, c, m, hf⟩ := frames_frame channels.toNat n.toNat s
    have hcount : n.zeroExtend 64 = BitVec.ofNat 64 n.toNat := by
      apply BitVec.eq_of_toNat_eq
      rw [BitVec.toNat_setWidth, BitVec.toNat_ofNat]
    beta_reduce
    rw [frameLoop]
    generalize frames channels.toNat n.toNat s = u at hf ⊢
    subst hf
    simp only [endCommand_ok, carryOver, hcount]
  · have hword : outWord (endCommand (frameLoop channels.toNat n.toNat s) .ok) c k =
        Rules.clamped (Rules.mixed (drained channels.toNat s k)) := by
      rw [outWord_eq _ (hc.trans_le hc2) (hk.trans_le hn2), mixed_eq]
      exact readWord_frames hn2 s hc hk
    exact ⟨hword, by rw [hword]; exact within_fclamp (by decide) (by decide) (by decide) _⟩

end Sys2Proof.Machine
end

section
/-!
PROOFS. The reset state (70_reset_and_hazards.md R351) meets every invariant.
-/

namespace Sys2Proof.Machine

/-- OUT reads zero at reset (log entry 3). -/
theorem outputBounded_reset : OutputBounded State.reset := by
  intro c n hc hn
  have hzero : readWord State.reset.mem (outAddr c n) = 0 := show wordOfBytes 0 0 0 0 = 0 by decide
  rw [outWord_eq _ hc hn, hzero]
  decide

/-- A slot never triggered has zero sections (log entry 4). -/
theorem formantsBounded_reset : FormantsBounded State.reset := by
  have hsection : SectionBounded Section.zero := ⟨by decide, by decide⟩
  have hbank : BankBounded Bank.zero := ⟨hsection, hsection, hsection, hsection⟩
  intro j
  rw [voice_reset]
  exact ⟨hbank, hbank⟩

/-- Settles O51: the state's own part by its fields, the slots' part by the power-on slot. -/
theorem resetIsLegal : Obligations.ResetIsLegal :=
  ⟨memoryLegal_reset, fun j => voice_reset j ▸ railsOk_reset, configLegal_reset, poolLegal_reset, delayLegal_reset,
    fun j => voice_reset j ▸ crossfadeOk_reset, queueLegal_reset, paramsLegal_reset, outputBounded_reset,
    fun j => voice_reset j ▸ integratorsOk_reset, formantsBounded_reset⟩

end Sys2Proof.Machine
end

section
/-!
PROOFS. What the host may and may not do on the bus (20_memory.md R84 to R88): a bad access faults, a legal one
completes and is taken from the acts to come, and a store that the map does not list or makes read-only is ignored.
-/

namespace Sys2Proof.Machine

/-! ## Faults and completion -/

theorem accessOk_iff (addr : Word) (width : Width) :
    accessOk addr width = true ↔ width = .word ∧ addr.toNat % 4 = 0 := by
  simp [accessOk]

theorem step_nil {s : State} (h : s.pending = []) : step s = .next s := by
  simp only [step, performNext, h]

theorem step_cons {s : State} {act : HostAct} {rest : List HostAct} (h : s.pending = act :: rest) :
    step s = perform act { s with pending := rest } := by
  simp only [step, performNext, h]

/-- Settles O8: such an access is not `accessOk`, whether it reads or writes. -/
theorem badAccessesFault : Obligations.BadAccessesFault := by
  intro s addr width w rest hbad
  have hok : accessOk addr width ≠ true := by
    rw [ne_eq, accessOk_iff]
    tauto
  exact ⟨fun h => (step_cons h).trans (if_neg hok), fun h => (step_cons h).trans (if_neg hok)⟩

theorem execute_completes (w : Word) (s : State) : Completes (execute w s) := by
  obtain ⟨i, _, he⟩ | ⟨e, _, he⟩ := execute_cases w s
  · exact ⟨_, he.trans (exec_run _ _)⟩
  · exact ⟨_, he⟩

theorem step_write_cmd {s : State} {addr w : Word} {rest : List HostAct}
    (h : s.pending = .write addr .word w :: rest) (hcmd : addr.toNat = cmdAddr) :
    step s = execute w { s with pending := rest } := by
  have hok : accessOk addr .word = true := (accessOk_iff _ _).mpr ⟨rfl, by rw [hcmd]; rfl⟩
  rw [step_cons h, perform, if_pos hok, hostWrite, if_pos hcmd]

theorem LegalHost.completes {s : State} (h : LegalHost s) : Completes (step s) := by
  cases hp : s.pending with
  | nil => exact ⟨s, step_nil hp⟩
  | cons act rest =>
    have hact := h act (hp ▸ List.mem_cons_self)
    cases act with
    | read addr width =>
      obtain ⟨rfl, h4⟩ := (accessOk_iff _ _).mp hact
      exact ⟨_, step_read hp h4⟩
    | write addr width w =>
      obtain ⟨rfl, h4⟩ := (accessOk_iff _ _).mp hact
      by_cases hcmd : addr.toNat = cmdAddr
      · exact step_write_cmd hp hcmd ▸ execute_completes w _
      · exact ⟨_, step_write hp h4 hcmd⟩
    | reset => exact ⟨_, step_cons hp⟩

/-! ## The acts to come -/

theorem busWrite_pending (s : State) (a : Nat) (w : Word) : (busWrite s a w).pending = s.pending := by
  obtain h | h | ⟨i, h⟩ | ⟨h, _⟩ | ⟨_, _, h⟩ := busWrite_cases s a w <;> rw [h]
  exact clearErrors_pending s w

theorem exec_pending {i : Instr} {s t : State} (h : exec i s = .next t) : t.pending = s.pending := by
  obtain ⟨u, c, he, rfl⟩ := exec_effect h
  exact he.writes.pending

/-- A step takes the first act and leaves the others to come. -/
theorem step_pending {s t : State} (h : step s = .next t) : t.pending = s.pending.tail := by
  have next : ∀ u, step s = .next u → t = u := fun u he => Host.Outcome.next.inj (h.symm.trans he)
  rcases step_cases s with ⟨hp, he⟩ | ⟨_, _, _, _, he⟩ | ⟨addr, rest, hp, _, he⟩ | ⟨addr, w, rest, hp, _, _, he⟩ |
    ⟨addr, w, rest, i, hp, _, _, he⟩ | ⟨addr, w, rest, e, hp, _, _, he⟩ | ⟨rest, hp, he⟩
  · rw [next _ he, hp]
    rfl
  · rw [he] at h
    cases h
  · rw [next _ he, hp]
    rfl
  · rw [next _ he, hp]
    exact busWrite_pending _ _ _
  · rw [exec_pending (he.symm.trans h), hp]
    rfl
  · rw [next _ he, hp]
    rfl
  · rw [next _ he, hp]
    rfl

/-- Settles O9: a legal act completes, and the acts left to come are among those that were legal before. -/
theorem legalHostNeverStops : Obligations.LegalHostNeverStops := by
  refine ⟨fun s hs => ?_, fun s => step_nil⟩
  obtain ⟨t, ht⟩ := hs.completes
  exact ⟨t, ht, fun act hact => hs act (List.mem_of_mem_tail (step_pending ht ▸ hact))⟩

/-! ## Accesses the map does not list (20 R86) -/

theorem regAt_eq_none {a : Nat} (h : ∀ r, regOffset r ≠ a) : regAt a = none :=
  List.find?_eq_none.mpr fun r _ => by simpa using h r

theorem regOffset_ne_of_unmapped {a : Nat} (h : regionOf a = .unmapped) (r : Reg) : regOffset r ≠ a := by
  rintro rfl
  rw [regionOf_regOffset] at h
  cases h

theorem busRead_unlisted (s : State) {a : Nat} (hregion : regionOf a = .unmapped ∨ regionOf a = .registers)
    (h : ∀ r, regOffset r ≠ a) : busRead s a = 0 := by
  obtain hr | hr := hregion <;> simp only [busRead, hr, regAt_eq_none h]

theorem busWrite_unlisted (s : State) {a : Nat} (w : Word)
    (hregion : regionOf a = .unmapped ∨ regionOf a = .registers) (h : ∀ r, regOffset r ≠ a) : busWrite s a w = s := by
  obtain hr | hr := hregion <;> simp only [busWrite, hr, regAt_eq_none h]

/-- Settles O11: no register stands at an unmapped address either, so both kinds of address are unlisted. -/
theorem unmappedReadsZeroIgnoresWrites : Obligations.UnmappedReadsZeroIgnoresWrites := by
  intro s addr w rest h4 hmap
  have hregion : regionOf addr.toNat = .unmapped ∨ regionOf addr.toNat = .registers := hmap.imp_right And.left
  have hreg : ∀ r, regOffset r ≠ addr.toNat := hmap.elim regOffset_ne_of_unmapped And.right
  refine ⟨fun h => ?_, fun h => ?_⟩
  · rw [step_read h h4, hostRead, busRead_unlisted _ hregion hreg]
    rfl
  · rw [step_write h h4 (hreg .cmd).symm, busWrite_unlisted _ w hregion hreg]

/-! ## Stores that are ignored (20 R88) -/

theorem regWrite_readOnly {r : Reg} (h : ReadOnlyReg r) (s : State) (w : Word) : regWrite s w r = s := by
  obtain ⟨herror, hcmd, harg⟩ := h
  cases r with
  | error => exact absurd rfl herror
  | cmd => exact absurd rfl hcmd
  | arg i => exact absurd rfl (harg i)
  | _ => rfl

theorem ReadOnlyReg.ne_cmd {r : Reg} (h : ReadOnlyReg r) : r ≠ .cmd := h.2.1

theorem regOffset_eq_cmdAddr {r : Reg} (h : regOffset r = cmdAddr) : r = .cmd :=
  regOffset_injective r (allRegs_complete r) .cmd (allRegs_complete .cmd) h

/-- Settles O12: neither kind of address is that of CMD, and the store leaves the state as it is. -/
theorem readOnlyWritesIgnored : Obligations.ReadOnlyWritesIgnored := by
  intro s addr w rest h4 haddr h
  obtain ⟨r, hr, hoff⟩ | ⟨hlo, hhi⟩ := haddr
  · have hcmd : addr.toNat ≠ cmdAddr := fun he =>
      hr.ne_cmd (regOffset_eq_cmdAddr (hoff.trans he))
    rw [step_write h h4 hcmd, ← hoff, busWrite_regOffset, regWrite_readOnly hr]
  · have hcmd : addr.toNat ≠ cmdAddr := by
      unfold cmdAddr
      omega
    have hregion : regionOf addr.toNat = .out := regionOf_out hlo hhi
    rw [step_write h h4 hcmd]
    simp only [busWrite, hregion]

end Sys2Proof.Machine
end

section
/-!
PROOFS. The header of a command and the command of a header (30_encoding.md R110 to R121). A header is its fields one
after the other, in one of four forms; decoding reads the fields of the form back, and putting the fields of a word
together again gives the word.
-/

namespace Sys2Proof.Machine

open Sys2Proof.Laws

/-! ## The fields of a header, form by form -/

/-- The field between two others. -/
theorem extractLsb'_append_middle {u v w : Nat} (x : BitVec u) (y : BitVec v) (z : BitVec w) :
    (x ++ y ++ z).extractLsb' w v = y := by
  rw [BitVec.extractLsb'_append_eq_of_le (Nat.le_refl w), Nat.sub_self]
  exact BitVec.extractLsb'_append_eq_right

theorem high_of_two (op a : BitVec 8) (b : BitVec 16) : headerField (op ++ a ++ b) 16 8 = a :=
  extractLsb'_append_middle op a b

theorem low_of_two (op a : BitVec 8) (b : BitVec 16) : headerField (op ++ a ++ b) 0 16 = b :=
  BitVec.extractLsb'_append_eq_right

theorem high_of_param (op a b c : BitVec 8) : headerField (op ++ a ++ b ++ c) 16 8 = a :=
  (BitVec.extractLsb'_append_eq_of_le (by decide)).trans (extractLsb'_append_middle op a b)

theorem middle_of_param (op a b c : BitVec 8) : headerField (op ++ a ++ b ++ c) 8 8 = b :=
  extractLsb'_append_middle (op ++ a) b c

theorem low_of_param (op a b c : BitVec 8) : headerField (op ++ a ++ b ++ c) 0 8 = c :=
  BitVec.extractLsb'_append_eq_right

section
variable (op : BitVec 8) (r : BitVec 1) (note : BitVec 7) (f : BitVec 1) (ofs : BitVec 15) (b : BitVec 16)

theorem r_of_note : headerField (op ++ r ++ note ++ f ++ ofs) 23 1 = r :=
  (BitVec.extractLsb'_append_eq_of_le (by decide)).trans <|
    (BitVec.extractLsb'_append_eq_of_le (by decide)).trans (extractLsb'_append_middle op r note)

theorem note_of_note : headerField (op ++ r ++ note ++ f ++ ofs) 16 7 = note :=
  (BitVec.extractLsb'_append_eq_of_le (by decide)).trans (extractLsb'_append_middle (op ++ r) note f)

theorem flag_of_note : headerField (op ++ r ++ note ++ f ++ ofs) 15 1 = f :=
  extractLsb'_append_middle (op ++ r ++ note) f ofs

theorem low_of_note : headerField (op ++ r ++ note ++ f ++ ofs) 0 15 = ofs :=
  BitVec.extractLsb'_append_eq_right

theorem r_of_note_now : headerField (op ++ r ++ note ++ b) 23 1 = r :=
  (BitVec.extractLsb'_append_eq_of_le (by decide)).trans (extractLsb'_append_middle op r note)

theorem note_of_note_now : headerField (op ++ r ++ note ++ b) 16 7 = note :=
  extractLsb'_append_middle (op ++ r) note b

theorem low_of_note_now : headerField (op ++ r ++ note ++ b) 0 16 = b :=
  BitVec.extractLsb'_append_eq_right

end

/-! ## A word is its fields -/

/-- Two fields side by side are one field. -/
theorem headerField_append (w : Word) (lo m n : Nat) :
    headerField w (lo + n) m ++ headerField w lo n = headerField w lo (m + n) :=
  BitVec.extractLsb'_append_extractLsb'_eq_extractLsb' rfl

theorem headerField_all (w : Word) : headerField w 0 32 = w := BitVec.extractLsb'_eq_self

theorem fields_of_two (w : Word) : headerField w 24 8 ++ headerField w 16 8 ++ headerField w 0 16 = w := by
  rw [headerField_append w 16 8 8, headerField_append w 0 16 16, headerField_all]

theorem fields_of_param (w : Word) :
    headerField w 24 8 ++ headerField w 16 8 ++ headerField w 8 8 ++ headerField w 0 8 = w := by
  rw [headerField_append w 16 8 8, headerField_append w 8 16 8, headerField_append w 0 24 8, headerField_all]

theorem fields_of_note (w : Word) : headerField w 24 8 ++ headerField w 23 1 ++ headerField w 16 7 ++
    headerField w 15 1 ++ headerField w 0 15 = w := by
  rw [headerField_append w 23 8 1, headerField_append w 16 9 7, headerField_append w 15 16 1,
    headerField_append w 0 17 15, headerField_all]

theorem fields_of_note_now (w : Word) :
    headerField w 24 8 ++ headerField w 23 1 ++ headerField w 16 7 ++ headerField w 0 16 = w := by
  rw [headerField_append w 23 8 1, headerField_append w 16 9 7, headerField_append w 0 16 16, headerField_all]

/-! ## Both round trips -/

theorem decode_encode (i : Instr) : decode (encode i) = .ok i := by
  cases i with
  | nop | prepare | process | saveParams | loadParams => simp only [decode, encode, op_of_two, high_of_two, low_of_two]
  | setParam | getParam => simp only [decode, encode, op_of_param, high_of_param, middle_of_param, low_of_param]
  | noteOn | noteOff | noteOffNow =>
    simp only [decode, encode, op_of_note, r_of_note, note_of_note, flag_of_note, low_of_note]
  | noteOnNow => simp only [decode, encode, op_of_note_now, r_of_note_now, note_of_note_now, low_of_note_now]

theorem encode_of_decode {w : Word} {i : Instr} (h : decode w = .ok i) : encode i = w := by
  unfold decode at h
  split at h
  case h_1 hop | h_2 hop | h_3 hop | h_6 hop | h_7 hop => cases h; rw [encode, ← hop, fields_of_two]
  case h_4 hop | h_5 hop => cases h; rw [encode, ← hop, fields_of_param]
  case h_8 hop | h_9 hop | h_11 hop => cases h; rw [encode, ← hop, fields_of_note]
  case h_10 hop => cases h; rw [encode, ← hop, fields_of_note_now]
  case h_12 => cases h

theorem decodeBytes_word (w : Word) (rest : List Byte) :
    decodeBytes ([byteOfWord w 0, byteOfWord w 1, byteOfWord w 2, byteOfWord w 3] ++ rest) =
      (decode w).map fun i => (i, rest) := by
  simp only [List.cons_append, List.nil_append, decodeBytes, wordOfBytes_byteOfWord]
  cases decode w <;> rfl

/-- Settles O1: each field is read back from its place in the header, and the bytes of a header make up its word. -/
theorem encodeThenDecode : Obligations.EncodeThenDecode := by
  intro i rest
  have hbytes := decodeBytes_word (encode i) rest
  rw [decode_encode] at hbytes
  exact ⟨decode_encode i, hbytes⟩

/-- Settles O2: the row that OP selects has every bit of the word in one of its fields. -/
theorem decodeThenEncode : Obligations.DecodeThenEncode := fun _ _ => encode_of_decode

/-- Settles O3: the decoder evaluated on each word. -/
theorem handWrittenHeadersDecode : Obligations.HandWrittenHeadersDecode := by
  unfold Obligations.HandWrittenHeadersDecode
  decide

end Sys2Proof.Machine
end

section
/-!
PROOFS. Headers that run no command: reserved bits set end with BAD_FIELD (30_encoding.md R119), a reserved OP with
BAD_OPCODE (R118). And the header of a table word runs its command at the next step (log entry 1).
-/

namespace Sys2Proof.Machine

/-! ## The fixed bits of a row (30 R114) -/

/-- Words of two parts are equal exactly where both parts are. -/
theorem append_eq_append_iff {m n : Nat} {x x' : BitVec m} {y y' : BitVec n} :
    x ++ y = x' ++ y' ↔ x = x' ∧ y = y' := by
  refine ⟨fun h => ⟨?_, ?_⟩, fun ⟨hx, hy⟩ => hx ▸ hy ▸ rfl⟩
  · have := congrArg (BitVec.extractLsb' n m) h
    rwa [BitVec.extractLsb'_append_eq_left, BitVec.extractLsb'_append_eq_left] at this
  · have := congrArg (BitVec.extractLsb' 0 n) h
    rwa [BitVec.extractLsb'_append_eq_right, BitVec.extractLsb'_append_eq_right] at this

theorem masked_two (op a ma : BitVec 8) (b mb : BitVec 16) :
    (op ++ a ++ b) &&& (BitVec.allOnes 8 ++ ma ++ mb) = op ++ 0#8 ++ 0#16 ↔ a &&& ma = 0#8 ∧ b &&& mb = 0#16 := by
  simp only [BitVec.and_append, append_eq_append_iff, BitVec.and_allOnes, true_and]

theorem masked_param (op a ma b mb c mc : BitVec 8) :
    (op ++ a ++ b ++ c) &&& (BitVec.allOnes 8 ++ ma ++ mb ++ mc) = op ++ 0#8 ++ 0#8 ++ 0#8 ↔
      (a &&& ma = 0#8 ∧ b &&& mb = 0#8) ∧ c &&& mc = 0#8 := by
  simp only [BitVec.and_append, append_eq_append_iff, BitVec.and_allOnes, true_and]

theorem masked_note (op : BitVec 8) (r mr : BitVec 1) (note mnote : BitVec 7) (f mf : BitVec 1)
    (ofs mofs : BitVec 15) :
    (op ++ r ++ note ++ f ++ ofs) &&& (BitVec.allOnes 8 ++ mr ++ mnote ++ mf ++ mofs) =
        op ++ 0#1 ++ 0#7 ++ 0#1 ++ 0#15 ↔
      ((r &&& mr = 0#1 ∧ note &&& mnote = 0#7) ∧ f &&& mf = 0#1) ∧ ofs &&& mofs = 0#15 := by
  simp only [BitVec.and_append, append_eq_append_iff, BitVec.and_allOnes, true_and]

theorem masked_note_now (op : BitVec 8) (r mr : BitVec 1) (note mnote : BitVec 7) (b mb : BitVec 16) :
    (op ++ r ++ note ++ b) &&& (BitVec.allOnes 8 ++ mr ++ mnote ++ mb) = op ++ 0#1 ++ 0#7 ++ 0#16 ↔
      (r &&& mr = 0#1 ∧ note &&& mnote = 0#7) ∧ b &&& mb = 0#16 := by
  simp only [BitVec.and_append, append_eq_append_iff, BitVec.and_allOnes, true_and]

/-- The mask of a row covers OP and its reserved fields, so that a header matches where those fields are zero. -/
theorem wellFormed_iff_masked (i : Instr) : i.wellFormed = true ↔ encode i &&& rowMask i = rowMatch i := by
  cases i with
  | nop a b | saveParams a b | loadParams a b =>
    refine .trans ?_ (masked_two _ a (.allOnes 8) b (.allOnes 16)).symm
    simp only [Instr.wellFormed, Bool.and_eq_true, beq_iff_eq, BitVec.and_allOnes, BitVec.ofNat_eq_ofNat]
  | prepare a b | process a b =>
    refine .trans ?_ (masked_two _ a 0#8 b 0#16).symm
    simp only [Instr.wellFormed, BitVec.and_zero, and_self]
  | setParam a b id | getParam a b id =>
    refine .trans ?_ (masked_param _ a (.allOnes 8) b (.allOnes 8) id 0#8).symm
    simp only [Instr.wellFormed, Bool.and_eq_true, beq_iff_eq, BitVec.and_allOnes, BitVec.and_zero, and_true,
      BitVec.ofNat_eq_ofNat]
  | noteOn r note f ofs =>
    refine .trans ?_ (masked_note _ r (.allOnes 1) note 0#7 f (.allOnes 1) ofs 0#15).symm
    simp only [Instr.wellFormed, Bool.and_eq_true, beq_iff_eq, BitVec.and_allOnes, BitVec.and_zero, and_true,
      BitVec.ofNat_eq_ofNat]
  | noteOff r note f ofs =>
    refine .trans ?_ (masked_note _ r (.allOnes 1) note 0#7 f 0#1 ofs 0#15).symm
    simp only [Instr.wellFormed, beq_iff_eq, BitVec.and_allOnes, BitVec.and_zero, and_true, BitVec.ofNat_eq_ofNat]
  | noteOnNow r note b =>
    refine .trans ?_ (masked_note_now _ r (.allOnes 1) note 0#7 b (.allOnes 16)).symm
    simp only [Instr.wellFormed, Bool.and_eq_true, beq_iff_eq, BitVec.and_allOnes, BitVec.and_zero, and_true,
      BitVec.ofNat_eq_ofNat]
  | noteOffNow r note f rest =>
    refine .trans ?_ (masked_note _ r (.allOnes 1) note 0#7 f 0#1 rest (.allOnes 15)).symm
    simp only [Instr.wellFormed, Bool.and_eq_true, beq_iff_eq, BitVec.and_allOnes, BitVec.and_zero, and_true,
      BitVec.ofNat_eq_ofNat]

/-! ## Reserved bits (30 R119) -/

/-- The first check of every rule is that of its reserved fields. -/
theorem run_illFormed {i : Instr} (h : i.wellFormed = false) (s : State) : run i s = .failed .badField := by
  cases i with
  | prepare | process => cases h
  | noteOff => exact if_pos (by simpa [Instr.wellFormed] using h)
  | _ => exact if_pos (by simpa [Instr.wellFormed, ← not_and_or] using h)

/-- Settles O4: a word that decodes is the header of its command, so its mask is that of `wellFormed_iff_masked`. -/
theorem reservedBitsEndBadField : Obligations.ReservedBitsEndBadField := by
  intro w i hdecode
  obtain rfl := encode_of_decode hdecode
  refine ⟨wellFormed_iff_masked i, fun s hmask => ?_⟩
  rw [ne_eq, ← wellFormed_iff_masked, Bool.not_eq_true] at hmask
  rw [exec_run, run_illFormed hmask, finish_failed]
  rfl

/-! ## Reserved opcodes (30 R118) -/

/-- The opcodes of the eleven rows (30 R114). -/
def definedOps : List (BitVec 8) :=
  [0x00#8, 0x01#8, 0x02#8, 0x03#8, 0x04#8, 0x05#8, 0x06#8, 0x10#8, 0x11#8, 0x12#8, 0x13#8]

theorem reservedOp_iff (op : BitVec 8) : ReservedOp op ↔ op ∉ definedOps := by
  simp only [ReservedOp, definedOps, List.mem_cons, List.not_mem_nil, or_false, ← BitVec.toNat_inj,
    BitVec.reduceToNat]
  omega

theorem decode_reserved_iff (w : Word) :
    decode w = .error (.reservedOpcode (headerField w 24 8)) ↔ ReservedOp (headerField w 24 8) := by
  rw [reservedOp_iff, definedOps]
  unfold decode
  split
  case h_12 => simp_all
  all_goals
    next hop => simp only [hop, List.mem_cons, true_or, or_true, not_true_eq_false, reduceCtorEq]

/-- Settles O7: the decoder's last arm is reached by the reserved opcodes alone, and EXECUTE ends it with BAD_OPCODE. -/
theorem reservedOpcodeEndsBadOpcode : Obligations.ReservedOpcodeEndsBadOpcode := by
  intro s w rest
  refine ⟨decode_reserved_iff w, fun h hop => ?_⟩
  rw [step_write_cmd h rfl, execute, (decode_reserved_iff w).mpr hop]
  rfl

/-! ## Table words -/

theorem decode_of_decodeTableWord {nbits w : Nat} {i : Instr} (h : decodeTableWord nbits w = some i) :
    decode (tableHeader nbits w) = .ok i := by
  have hbytes : decodeBytes (tableBytes nbits w) = _ := decodeBytes_word (tableHeader nbits w) []
  rw [decodeTableWord, hbytes] at h
  cases hd : decode (tableHeader nbits w) with
  | ok j =>
    rw [hd] at h
    exact congrArg _ (Option.some.inj h)
  | error e =>
    rw [hd] at h
    cases h

/-- Settles O6: the act that `withFetchWord` puts in front is the write of that header to CMD. -/
theorem fetchWordRunsCommand : Obligations.FetchWordRunsCommand := by
  intro s nbits w i h
  have hpending : (s.withFetchWord nbits w).pending =
      .write (BitVec.ofNat 32 cmdAddr) .word (tableHeader nbits w) :: s.pending := rfl
  rw [step_write_cmd hpending rfl, execute, decode_of_decodeTableWord h]
  rfl

end Sys2Proof.Machine
end

section
/-!
PROOFS. The nine values of a note-on (44_voice.md R243; 45_commands.md R279, R304): the machine's check and clamp give
the values that Rules.noteValues writes out, and NOTE_ON queues them.
-/

namespace Sys2Proof.Machine

/-! ## One value -/

/-- Numbers of equal key are the same once a zero is +0.0. -/
theorem fplusZero_eq_of_fkey_eq {x y : F32} (h : fkey x = fkey y) : fplusZero x = fplusZero y := by
  by_cases hx : fmag x = 0
  · have hy : fmag y = 0 := by
      rw [fkey_of_fmag_zero hx, fkey] at h
      split at h <;> omega
    simp [fplusZero, hx, hy]
  · rw [eq_of_fkey_eq h hx]

theorem fplusZero_of_pos {x : F32} (h : 0 < fkey x) : fplusZero x = x := by
  obtain ⟨hzero, _⟩ | ⟨_, he⟩ := fplusZero_cases x
  · rw [fkey_of_fmag_zero hzero] at h
    omega
  · exact he

/-- A zero of either sign is what equals 0.0. -/
theorem feq_zero_iff (x : F32) : feq x Config.zero = true ↔ fmag x = 0 := by
  rw [feq_iff, fkey_zero]
  constructor
  · rintro ⟨_, _, h⟩
    rw [fkey] at h
    split at h <;> omega
  · intro h
    exact ⟨by simp [fisNaN, h], rfl, fkey_of_fmag_zero h⟩

theorem fplusZero_eq (x : F32) : fplusZero x = if feq x Config.zero then Config.zero else x := by
  simp only [feq_zero_iff, fplusZero, beq_iff_eq]

section
variable {a b : F32} (ha : fisNaN a = false) (hb : fisNaN b = false)
include ha hb

theorem fkey_fmin : fkey (fmin a b) = min (fkey a) (fkey b) := by
  simp only [fmin, flt, ha, hb, Bool.not_false, Bool.true_and, decide_eq_true_eq]
  split <;> omega

theorem fkey_fmax : fkey (fmax a b) = max (fkey a) (fkey b) := by
  simp only [fmax, flt, ha, hb, Bool.not_false, Bool.true_and, decide_eq_true_eq]
  split <;> omega

end

/-- The clamp of 00 R9 and the clamp of the rule give the same number. -/
theorem fkey_fclamp {lo hi x : F32} (hlo : fisNaN lo = false) (hhi : fisNaN hi = false) (hx : fisNaN x = false)
    (hle : fkey lo ≤ fkey hi) : fkey (fclamp x lo hi) = fkey (if flt x lo then lo else fmin hi x) := by
  rw [fclamp, fkey_fmin (fmax_bound x lo hlo).1 hhi, fkey_fmax hx hlo]
  split
  · next h =>
    rw [flt_iff] at h
    omega
  · next h =>
    rw [flt_iff] at h
    have : ¬ fkey x < fkey lo := fun hlt => h ⟨hx, hlo, hlt⟩
    rw [fkey_fmin hhi hx]
    omega

theorem fplusZero_fclamp {lo hi x : F32} (hlo : fisNaN lo = false) (hhi : fisNaN hi = false) (hx : fisNaN x = false)
    (hle : fkey lo ≤ fkey hi) : fplusZero (fclamp x lo hi) = Rules.noteValue lo hi x :=
  (fplusZero_eq_of_fkey_eq (fkey_fclamp hlo hhi hx hle)).trans (fplusZero_eq _)

/-- A velocity above zero has no zero to turn and no low clamp (45 R304). -/
theorem fplusZero_fmin_one {x : F32} (hx : fisNaN x = false) (hpos : fle x Config.zero = false) :
    fplusZero (fmin x Config.one) = if flt Config.one x then Config.one else x := by
  have hkey : 0 < fkey x := by
    rw [← Bool.not_eq_true, fle_iff, fkey_zero] at hpos
    exact lt_of_not_ge fun h => hpos ⟨hx, rfl, h⟩
  have hswap : fkey (fmin x Config.one) = fkey (fmin Config.one x) := by
    rw [fkey_fmin hx rfl, fkey_fmin rfl hx, min_comm]
  refine (fplusZero_eq_of_fkey_eq hswap).trans (fplusZero_of_pos ?_)
  rw [fkey_fmin rfl hx, fkey_one]
  omega

/-! ## The nine values (45 R304) -/

section
variable {s : State} (number : ∀ k : Fin 9, fisNaN (argValue s k) = false)
include number

theorem hasNaN_gestureArgs : (gestureArgs s).hasNaN = false := by
  simp only [Gesture.hasNaN, gestureArgs, number, Bool.or_self]

theorem gestureCheck_off (hoff : fle (argValue s 0) Config.zero = true) : gestureCheck (gestureArgs s) = .isOff := by
  have hvel : fle (gestureArgs s).velocity Config.zero = true := hoff
  simp only [gestureCheck, hasNaN_gestureArgs number, hvel, Bool.false_eq_true, if_false, if_true]

theorem clamped_gestureArgs (hpos : fle (argValue s 0) Config.zero = false) :
    (gestureArgs s).clamped = Rules.noteValues s := by
  rw [Gesture.clamped, Rules.noteValues, Gesture.mk.injEq]
  have unit (k : Fin 9) : fplusZero (fclamp (argValue s k) Config.zero Config.one) =
      Rules.noteValue 0x00000000#32 0x3F800000#32 (argValue s k) := fplusZero_fclamp rfl rfl (number k) (by decide)
  exact ⟨fplusZero_fmin_one (number 0) hpos, unit 1, unit 2, unit 3, unit 4,
    fplusZero_fclamp rfl rfl (number 5) (by decide), fplusZero_fclamp rfl rfl (number 6) (by decide), unit 7, unit 8⟩

omit number in
theorem sameValues_noteValues : (!(Rules.noteValues s).sameValues (gestureArgs s)) = Rules.noteClamped s := by
  simp only [Gesture.sameValues, Rules.noteClamped, List.all_cons, List.all_nil, Bool.and_true, Bool.and_assoc]
  rfl

theorem gestureCheck_on (hpos : fle (argValue s 0) Config.zero = false) :
    gestureCheck (gestureArgs s) = .on (Rules.noteValues s) (Rules.noteClamped s) := by
  have hvel : fle (gestureArgs s).velocity Config.zero = false := hpos
  simp only [gestureCheck, hasNaN_gestureArgs number, hvel, Bool.false_eq_true, if_false,
    clamped_gestureArgs number hpos, sameValues_noteValues]

end

/-! ## The end of a note-on, and NOTE_ON (45 R293) -/

/-- A note-on that leaves ERROR to its end ends with the rule's RESULT and ERROR. -/
theorem finish_note {s t : State} (herror : t.error = s.error) : finish s (.done t (Rules.noteClamped s)) =
    { t with result := Rules.noteResult s, error := Rules.noteError s } := by
  rw [Rules.noteResult, Rules.noteError, ← herror]
  cases Rules.noteClamped s with
  | true => rfl
  | false => rfl

theorem tryEnqueue_room {s : State} (hroom : s.queue.length < 64) (kind : EventKind) (note : BitVec 7)
    (ofs : BitVec 15) (clamped : Bool) :
    tryEnqueue kind note ofs clamped s = .done (enqueue s kind note ofs) clamped :=
  if_neg (by simpa [queueFull] using hroom)

/-- Settles O44: the check of the values decides between the two events, and the queue has room for either. -/
theorem noteOnCompletes : Obligations.NoteOnCompletes := by
  intro s note ofs hprep hroom number
  refine ⟨fun hoff => ?_, fun hpos => ?_⟩
  · have hrun : run (.noteOn 0 note 0 ofs) s = .done (enqueue s (.noteOff false) note ofs) false := by
      simp only [run, runNoteOn, hprep, gestureCheck_off number hoff, tryEnqueue_room hroom, ne_eq, not_true_eq_false,
        or_self, Bool.not_true, Bool.false_eq_true, if_false]
    rw [exec_run, hrun, finish_done, endCommand_ok]
    rfl
  · have hrun : run (.noteOn 0 note 0 ofs) s =
        .done (enqueue s (.noteOn (Rules.noteValues s)) note ofs) (Rules.noteClamped s) := by
      simp only [run, runNoteOn, hprep, gestureCheck_on number hpos, tryEnqueue_room hroom, ne_eq, not_true_eq_false,
        or_self, Bool.not_true, Bool.false_eq_true, if_false]
    rw [exec_run, hrun, finish_note (enqueue_error s _ note ofs)]
    rfl

end Sys2Proof.Machine
end

section
/-!
PROOFS. A trigger leaves in its slot what Rules.triggered writes out (44_voice.md R244 and the rules it names), and
NOTE_ON_NOW triggers the slot that the allocation takes (45_commands.md R271, R272, R298).
-/

namespace Sys2Proof.Machine

/-! ## The parts of a triggered slot -/

/-- The table of 44 R241 against twelve values and the octave in the exponent (log entry 20). -/
theorem noteFreq_eq : ∀ note : BitVec 7, noteFreq note = Rules.noteTable.getD note.toNat 0 := by decide

theorem secCoeff_eq (fs fc g q : F32) : secCoeff fs fc g q = Rules.sectionCoeffs fs fc g q := rfl

/-- The base triples of 43 R222: the integers of the machine's table as binary32. -/
theorem hornProfile_eq (s : State) (horn : Nat) (k : Fin 4) :
    ((hornProfile s horn k).fc, (hornProfile s horn k).g, (hornProfile s horn k).q) = Rules.profile s horn k := by
  match horn, k with
  | 0, 0 | 0, 1 | 0, 2 | 0, 3 | 1, 0 | 1, 1 | 1, 2 | 1, 3 | 2, 0 | 2, 1 | 2, 2 | 2, 3 => rfl
  | 3, 0 | 3, 1 | 3, 2 | 3, 3 | 4, 0 | 4, 1 | 4, 2 | 4, 3 => rfl
  | _ + 5, 0 | _ + 5, 1 | _ + 5, 2 | _ + 5, 3 => rfl

theorem bankSecCoeff_eq (s : State) (k : Fin 4) : bankSecCoeff s (hornIndex s) k = Rules.bankCoeffs s k := by
  have hpair : k.val < 2 ↔ k = 0 ∨ k = 1 := by omega
  simp only [bankSecCoeff, Rules.bankCoeffs, hornIndex, ← hornProfile_eq, secCoeff_eq, hpair]

theorem bankLoad_eq (s : State) (b : Bank) : bankLoad s (hornIndex s) b = Rules.loaded s b := by
  simp only [bankLoad, bankSecCoeff_eq, Rules.loaded]

/-- The parts not named here stand in the machine as the rule writes them. -/
theorem triggerVoice_eq (s : State) (note : BitVec 7) (g : Gesture) (v : Voice) :
    triggerVoice s note g s.triggerCounter v = Rules.triggered s note g v := by
  simp only [triggerVoice, fmtTrigger, bankLoad_eq, noteFreq_eq]
  rfl

/-! ## NOTE_ON_NOW -/

theorem exec_noteOnNow {s : State} (note : BitVec 7) (hprep : s.prepared = true)
    (number : ∀ k : Fin 9, fisNaN (argValue s k) = false) (hpos : fle (argValue s 0) Config.zero = false) :
    exec (.noteOnNow 0 note 0) s =
      .next (finish s (.done (noteOnExec s note (Rules.noteValues s)) (Rules.noteClamped s))) := by
  simp only [exec_run, run, runNoteOnNow, hprep, gestureCheck_on number hpos, ne_eq, not_true_eq_false, or_self,
    Bool.not_true, Bool.false_eq_true, if_false]

/-- NOTE_ON_NOW triggers the slot the allocation takes, Idle or stolen, and changes nothing else but TRIGGER_COUNTER and
the result. -/
theorem noteOnNow_triggers {s u : State} {note : BitVec 7} {i : Fin 16} (hprep : s.prepared = true)
    (number : ∀ k : Fin 9, fisNaN (argValue s k) = false) (hpos : fle (argValue s 0) Config.zero = false)
    (halloc : alloc s = some (i, u)) :
    ∃ t, exec (.noteOnNow 0 note 0) s = .next t ∧
      t = { s with
        result := Rules.noteResult s, error := Rules.noteError s
        voices := t.voices, triggerCounter := s.triggerCounter + 1 } ∧
      voice t i = Rules.triggered s note (Rules.noteValues s) (voice s i) ∧ ∀ j, j ≠ i → voice t j = voice s j := by
  refine ⟨_, exec_noteOnNow note hprep number hpos, ?_⟩
  rw [noteOnExec_alloc note _ halloc, finish_note (trigger_error s i note _)]
  have hvoice (j : Fin 16) := voice_trigger s i j note (Rules.noteValues s)
  refine ⟨?_, ?_, fun j hj => ?_⟩
  · rw [trigger_frame]
  · exact (hvoice i).trans ((if_pos rfl).trans (triggerVoice_eq s note _ _))
  · exact (hvoice j).trans (if_neg hj.symm)

/-- The allocation takes an Idle slot in use that has none below it (45 R272). -/
theorem alloc_lowestIdle {s : State} {i : Fin 16} (hused : inUse s i = true) (hidle : (voice s i).state = .idle)
    (hlow : ∀ j, j < i → (voice s j).state ≠ .idle) : alloc s = some (i, s) := by
  have hmem : i ∈ slotsIn s .idle := (mem_slotsIn s .idle i).mpr ⟨hused, hidle⟩
  obtain ⟨k, rest, hslots⟩ := List.exists_cons_of_ne_nil (List.ne_nil_of_mem hmem)
  obtain ⟨_, hk, hmin⟩ := slotsIn_head hslots
  obtain rfl : k = i := le_antisymm (hmin i hused hidle) (not_lt.mp fun h => hlow k h hk)
  simp only [alloc, hslots]

/-- Settles O48: the allocation takes that slot, and the trigger leaves in it what the rules compute. -/
theorem noteOnNowTakesLowestIdleSlot : Obligations.NoteOnNowTakesLowestIdleSlot := by
  intro s note i hprep number hpos hused hidle hlow
  exact noteOnNow_triggers hprep number hpos (alloc_lowestIdle (decide_eq_true hused) hidle hlow)

end Sys2Proof.Machine
end

section
/-!
PROOFS. A parameter write that changes a stored value ends with the recomputation of its row (45_commands.md R295,
R303), and the row of a ratio is the ratio and its channel's lock in every live slot (40_pll.md R141, R142, R155).
-/

namespace Sys2Proof.Machine

/-- Live as 45 R303 words it: in use and not Idle. -/
theorem voice_mapLive_of_not_idle (f : Voice → Voice) (s : State) (i : Fin 16) : voice (mapLive f s) i =
    if inUse s i = true ∧ (voice s i).state ≠ .idle then f (voice s i) else voice s i := by
  rw [voice_mapLive]
  exact if_congr (by simp only [Bool.and_eq_true, Voice.active, bne_iff_ne]) rfl rfl

/-! ## A write that changes the stored value -/

theorem storeParam_changed {p : Param} {x : F32} {s : State} (hprep : s.prepared = true)
    (changed : feq x (param s p) = false) : storeParam p x s = recompute p (setParam s p x) := by
  simp only [storeParam, hprep, changed, Bool.not_false, Bool.and_true, if_true]

/-- A SET_PARAM that passes its checks ends the checked write with OK or VALUE_CLAMPED (45 R295). -/
theorem exec_setParam {s : State} (p : Param) (number : fisNaN (argValue s 0) = false) :
    exec (.setParam 0 0 (paramRow p).id) s =
      .next (finish s (.done (storeParam p (paramCheck p (argValue s 0)).1 s) (paramCheck p (argValue s 0)).2)) := by
  simp only [exec_run, run, runSetParam, paramOfId_id, number, ne_eq, not_true_eq_false, or_self, Bool.false_eq_true,
    if_false]

/-- A SET_PARAM that changes the stored value of a prepared core recomputes the row of the parameter from the table it
leaves, and writes a result code. -/
theorem setParam_recomputes {s t : State} {p : Param} (hprep : s.prepared = true)
    (number : fisNaN (argValue s 0) = false) (changed : feq (paramCheck p (argValue s 0)).1 (param s p) = false)
    (h : exec (.setParam 0 0 (paramRow p).id) s = .next t) :
    ∃ c, t = endCommand (recompute p (setParam s p (paramCheck p (argValue s 0)).1)) c := by
  obtain rfl := Host.Outcome.next.inj ((exec_setParam p number).symm.trans h)
  rw [storeParam_changed hprep changed]
  cases (paramCheck p (argValue s 0)).2
  · exact ⟨.ok, finish_done _ _⟩
  · exact ⟨.valueClamped, finish_clamped _ _⟩

/-! ## The row of a ratio (40 R141, R142, R155) -/

theorem recompute_ratio0 {p : Param} (hp : p = .sub1Num ∨ p = .sub1Den) (s : State) :
    recompute p s = recomputeRatio0 s := by
  obtain rfl | rfl := hp <;> rfl

theorem recompute_ratio1 {p : Param} (hp : p = .sub2Num ∨ p = .sub2Den) (s : State) :
    recompute p s = recomputeRatio1 s := by
  obtain rfl | rfl := hp <;> rfl

theorem voice_recomputeRatio0 (s : State) (i : Fin 16) : voice (recomputeRatio0 s) i =
    if inUse s i = true ∧ (voice s i).state ≠ .idle then relock0 { s with ratio0 := ratio0Of s } (voice s i)
    else voice s i :=
  voice_mapLive_of_not_idle _ _ i

theorem voice_recomputeRatio1 (s : State) (i : Fin 16) : voice (recomputeRatio1 s) i =
    if inUse s i = true ∧ (voice s i).state ≠ .idle then relock1 { s with ratio1 := ratio1Of s } (voice s i)
    else voice s i :=
  voice_mapLive_of_not_idle _ _ i

/-- Settles O39: the write ends with the recomputation of its row (`setParam_recomputes`), which for a ratio is
`recomputeRatio0` or `recomputeRatio1`; what these leave is the statement's, from the table after the write. -/
theorem ratioWriteRelocksItsChannel : Obligations.RatioWriteRelocksItsChannel := by
  intro s t p hprep number changed h
  obtain ⟨c, rfl⟩ := setParam_recomputes hprep number changed h
  refine ⟨fun hp => ?_, fun hp => ?_⟩
  · rw [recompute_ratio0 hp]
    exact ⟨rfl, rfl, voice_recomputeRatio0 _⟩
  · rw [recompute_ratio1 hp]
    exact ⟨rfl, rfl, voice_recomputeRatio1 _⟩

end Sys2Proof.Machine
end

section
/-!
PROOFS. The clamp of the exciter's output, position and velocity (41_exciter.md R173, R176).
-/

namespace Sys2Proof.Machine

/-- The exciter's clamp holds its bound for every argument, a NaN too (41 R173; log entry 19). -/
theorem within_two_fclamp (x : F32) :
    within Config.minusTwo Config.two (fclamp x Config.minusTwo Config.two) = true :=
  within_fclamp (by decide) (by decide) (by decide) x

/-! ## What EXC_STEP clamps last (41 R173) -/

/-- The velocity's increment: the pressure-driven negative damping less the positive damping and the stiffness. -/
def excIncrement (u : F32) (x : Exciter) : F32 :=
  fsub (fmul (fsub (fmul (fmul x.mu (fmul u x.peff)) (fsub Config.one (fmul x.x x.x))) x.cd) x.v) (fmul x.stiff x.x)

/-- The saturating valve signal at the stepped exciter `t`, before the chaos term. -/
def excValve (s : State) (t : Exciter) : F32 :=
  fdiv (fmul t.aeff t.x) (fadd Config.one (fmul (param s .nonlinearity) (fabs t.x)))

/-- The chaos term at the stepped exciter `t` for a pressure differential `dp` (41 R174). -/
def excChaos (s : State) (dp : F32) (t : Exciter) : F32 :=
  fmul (fmul t.geff (fsub dp (param s .chaosThreshold))) (fsub t.z Config.half)

theorem excStep_v (s : State) (u : F32) (x : Exciter) :
    (excStep s u x).2.v = fclamp (fadd x.v (excIncrement u x)) Config.minusTwo Config.two := by
  rw [excStep, excIncrement]

theorem excStep_x (s : State) (u : F32) (x : Exciter) :
    (excStep s u x).2.x = fclamp (fadd x.x (excStep s u x).2.v) Config.minusTwo Config.two := by
  rw [excStep]

theorem excStep_output (s : State) (u : F32) (x : Exciter) :
    (excStep s u x).1 = fclamp
      (if flt (param s .chaosThreshold) (fmul u x.peff) then
        fadd (excValve s (excStep s u x).2) (excChaos s (fmul u x.peff) (excStep s u x).2)
      else excValve s (excStep s u x).2)
      Config.minusTwo Config.two := by
  simp only [excStep, excValve, excChaos]

/-- Settles O29: the step clamps the output, the position and the velocity last (`excStep_output`, `excStep_x`,
`excStep_v`), and a clamp lies between its bounds whatever its argument (`within_two_fclamp`). -/
theorem exciterBounded : Obligations.ExciterBounded := by
  intro s u x
  refine ⟨?output, ?position, ?velocity⟩
  case output => rw [excStep_output]; exact within_two_fclamp _
  case position => rw [excStep_x]; exact within_two_fclamp _
  case velocity => rw [excStep_v]; exact within_two_fclamp _

end Sys2Proof.Machine
end

section
/-!
PROOFS. One step of the waveguide (42_waveguide.md R194), and the row of lengthMeters: M, WG_FUND, and gl and RG of every
live slot (42 R191, R193, R195; 45_commands.md R303).
-/

namespace Sys2Proof.Machine

/-! ## WG_STEP (42 R194) -/

/-- CAP is 2^15, so 15-bit subtraction is the rule's modulo CAP. -/
theorem wgTap_eq (s : State) (g : Waveguide) : wgTap s g = (g.w.toNat + 32768 - s.delay.toNat) % 32768 := by
  have := s.delay.isLt
  rw [wgTap, BitVec.toNat_sub]
  omega

/-- The write index advances modulo CAP. -/
theorem wgStep_index (s : State) (x : F32) (g : Waveguide) :
    (wgStep s x g).2.w.toNat = (g.w.toNat + 1) % 32768 := by
  rw [wgStep, BitVec.toNat_add]
  rfl

theorem wgStep_fwd (s : State) (x : F32) (g : Waveguide) :
    (wgStep s x g).2.fwd = storeWrite g.fwd g.w.toNat (fadd x (storeRead g.bwd (wgTap s g))) := by
  rw [wgStep]

theorem wgStep_bwd (s : State) (x : F32) (g : Waveguide) :
    (wgStep s x g).2.bwd = storeWrite g.bwd g.w.toNat (fneg (fmul g.rg (storeRead g.fwd (wgTap s g)))) := by
  rw [wgStep]

/-- Settles O30: the step is one store to each rail at the write index (`wgStep_fwd`, `wgStep_bwd`), of which a read
gives the word written there and the old word elsewhere; tap and index are modulo CAP (`wgTap_eq`, `wgStep_index`). -/
theorem waveguideStep : Obligations.WaveguideStep := by
  intro s x g
  simp only [← wgTap_eq, wgStep_fwd, wgStep_bwd, storeRead_write_same, true_and]
  refine ⟨?output, fun k hk => ⟨?forward, ?backward⟩, wgStep_index s x g, ?coefficients⟩
  case output => rw [wgStep]
  case forward => exact storeRead_write_other _ _ _ _ hk.symm
  case backward => exact storeRead_write_other _ _ _ _ hk.symm
  case coefficients => exact ⟨rfl, rfl⟩

/-! ## The row of lengthMeters (42 R191, R193, R195)

What the row derives from a table in which lengthMeters is now `len`. -/

/-- M is the rounded delay clamped to [1, CAP − 1], which 15 bits hold. -/
theorem toNat_delayOf_setLength (s : State) (len : F32) : ((delayOf (setParam s .lengthMeters len)).toNat : Int) =
    min (max (rneInt (fdiv (fmul len s.sampleRate) Config.cSound)) 1) 32767 := by
  simp only [delayOf, param_setParam_same, setParam_sampleRate, BitVec.toNat_ofNat, Config.cap]
  omega

theorem wgFundOf_setLength (s : State) (len : F32) :
    wgFundOf (setParam s .lengthMeters len) = fdiv Config.cSound (fmul Config.two len) := by
  rw [wgFundOf, param_setParam_same]

/-- gl takes the new length and the loss the table already holds. -/
theorem lossGain_setLength (s : State) (len airLoss : F32) : lossGain (setParam s .lengthMeters len) airLoss =
    fdiv Config.one (fadd Config.one (fmul (fadd (param s .lossPerMeter) airLoss) (fmul Config.two len))) := by
  rw [lossGain, param_setParam_same, param_setParam_other _ _ _ _ (by decide)]

/-- The row rewrites gl and RG of a live slot and keeps its rails and write index (42 R195). -/
theorem voice_recomputeLength (s : State) (i : Fin 16) : voice (recomputeLength s) i =
    if inUse s i = true ∧ (voice s i).state ≠ .idle then voiceWgCoeffs s (voice s i) else voice s i :=
  voice_mapLive_of_not_idle _ _ i

/-- Settles O37: the write ends with the recomputation of the row of lengthMeters (`setParam_recomputes`); that row is M
(`toNat_delayOf_setLength`), WG_FUND (`wgFundOf_setLength`), and in every live slot gl and RG (`voice_recomputeLength`,
`lossGain_setLength`). -/
theorem lengthWriteMovesTheTap : Obligations.LengthWriteMovesTheTap := by
  intro s hprep number len changed
  have hexec := exec_setParam (s := s) .lengthMeters number
  obtain ⟨c, hrow⟩ := setParam_recomputes hprep number changed hexec
  refine ⟨_, hexec, ?_⟩
  rw [hrow]
  refine ⟨param_setParam_same _ _ _, toNat_delayOf_setLength s len, wgFundOf_setLength s len, rfl, fun i => ?slot⟩
  case slot =>
    refine (voice_recomputeLength (setParam s .lengthMeters len) i).trans (if_congr Iff.rfl ?live rfl)
    case live => rw [voiceWgCoeffs, wgCoeffs, lossGain_setLength]; rfl

end Sys2Proof.Machine
end

section
/-!
PROOFS. The output words of the formant sections (43_bell_formant.md R224, R228), and the row of hornType (43 R226;
45_commands.md R303): both go through what reading a bank of a slot gives after a write of one.
-/

namespace Sys2Proof.Machine

/-! ## The two banks of a slot (43 R220) -/

theorem bank_setBank (m : Formant) (b b' : BitVec 1) (bank : Bank) :
    (m.setBank b bank).bank b' = if b' = b then bank else m.bank b' := by
  have two : ∀ b : BitVec 1, b = 0 ∨ b = 1 := by decide
  rcases two b with rfl | rfl <;> rcases two b' with rfl | rfl <;> rfl

/-- The bank that is not current is 1 − cur. -/
theorem ne_one_sub (b : BitVec 1) : b ≠ 1 - b := by
  revert b; decide

/-! ## Bounded banks -/

/-- Both banks of a slot are bounded. -/
def FormantOk (m : Formant) : Prop := BankBounded m.bank0 ∧ BankBounded m.bank1

theorem formantOk_iff (m : Formant) : FormantOk m ↔ ∀ b, BankBounded (m.bank b) := by
  refine ⟨fun ⟨h0, h1⟩ b => ?_, fun h => ⟨h 0, h 1⟩⟩
  unfold Formant.bank
  split
  · exact h0
  · exact h1

theorem formantOk_setBank {m : Formant} {bank : Bank} (h : FormantOk m) (b : BitVec 1) (hb : BankBounded bank) :
    FormantOk (m.setBank b bank) := by
  rw [formantOk_iff] at h ⊢
  intro b'
  rw [bank_setBank]
  split
  · exact hb
  · exact h b'

theorem sectionBounded_withCoeffs (c : Coeffs) {sec : Section} (h : SectionBounded sec) :
    SectionBounded { sec with c := c } := h

/-- Loading coefficients writes no state word (43 R223). -/
theorem bankBounded_bankLoad (s : State) (horn : Nat) {b : Bank} (h : BankBounded b) :
    BankBounded (bankLoad s horn b) := by
  obtain ⟨h0, h1, h2, h3⟩ := h
  exact ⟨sectionBounded_withCoeffs _ h0, sectionBounded_withCoeffs _ h1, sectionBounded_withCoeffs _ h2,
    sectionBounded_withCoeffs _ h3⟩

theorem bankBounded_cleared (b : Bank) : BankBounded b.cleared := by
  have zero : within Config.minusF1024 Config.f1024 0 = true := by decide
  exact ⟨⟨zero, zero⟩, ⟨zero, zero⟩, ⟨zero, zero⟩, ⟨zero, zero⟩⟩

/-- SEC_STEP clamps the new y1 and moves the old one to y2 (43 R224). -/
theorem sectionBounded_secStep (x : F32) {sec : Section} (h : SectionBounded sec) : SectionBounded (secStep x sec).2 :=
  ⟨within_fclamp (by decide) (by decide) (by decide) _, h.1⟩

theorem bankBounded_bankStep (x : F32) {b : Bank} (h : BankBounded b) : BankBounded (bankStep x b).2 := by
  obtain ⟨h0, h1, h2, h3⟩ := h
  exact ⟨sectionBounded_secStep _ h0, sectionBounded_secStep _ h1, sectionBounded_secStep _ h2,
    sectionBounded_secStep _ h3⟩

/-- FMT_STEP steps the current bank and, while a crossfade runs, the other (43 R225). -/
theorem formantOk_fmtStep (x : F32) {m : Formant} (h : FormantOk m) : FormantOk (fmtStep x m).2 := by
  have steps : ∀ {m' : Formant} b, FormantOk m' → FormantOk (m'.setBank b (bankStep x (m'.bank b)).2) := fun b h' =>
    formantOk_setBank h' b (bankBounded_bankStep x ((formantOk_iff _).mp h' b))
  have current := steps m.cur h
  unfold fmtStep
  by_cases hx : m.xf = 0
  · simp only [hx, if_true]
    exact current
  · simp only [hx, if_false]
    exact steps (1 - m.cur) current

/-- TRIGGER clears every state word of both banks (43 R227). -/
theorem formantOk_fmtTrigger (s : State) (m : Formant) : FormantOk (fmtTrigger s m) :=
  ⟨bankBounded_bankLoad s _ (bankBounded_cleared _), bankBounded_cleared _⟩

theorem formantOk_voiceBankReload (s : State) {v : Voice} (h : FormantOk v.fmt) :
    FormantOk (voiceBankReload s v).fmt :=
  formantOk_setBank h _ (bankBounded_bankLoad s _ ((formantOk_iff _).mp h _))

theorem formantOk_hornSwitch (s : State) (horn : Nat) {v : Voice} (h : FormantOk v.fmt) :
    FormantOk (hornSwitch s horn v).fmt :=
  formantOk_setBank h (1 - v.fmt.cur) (bankBounded_bankLoad s horn ((formantOk_iff _).mp h v.fmt.cur))

/-! ## The invariant -/

/-- A row of 45 R303 leaves the formant state, reloads the current bank or switches banks. -/
theorem slotUpdate_fmt (p : Param) (s : State) (v : Voice) :
    (slotUpdate p s v).fmt = v.fmt ∨ (slotUpdate p s v).fmt = (voiceBankReload s v).fmt ∨
      (slotUpdate p s v).fmt = (hornSwitch s (hornIndex s) v).fmt := by
  cases p
  case hornType => exact .inr (.inr rfl)
  case brightness | warmth | metalness => exact .inr (.inl rfl)
  case customFreq0 | customFreq1 | customFreq2 | customFreq3 => exact .inr (.inl rfl)
  case customGain0 | customGain1 | customGain2 | customGain3 => exact .inr (.inl rfl)
  all_goals exact .inl rfl

theorem voiceKeeps_formantOk : VoiceKeeps fun v => FormantOk v.fmt where
  setState _ _ _ h := h
  trigger s _ _ _ v _ := formantOk_fmtTrigger s v.fmt
  step s v h := by
    obtain ⟨x, hx⟩ := voiceStep_fmt s v
    rw [hx]
    exact formantOk_fmtStep x h
  update p s v h := by
    rcases slotUpdate_fmt p s v with hf | hf | hf <;> rw [hf]
    · exact h
    · exact formantOk_voiceBankReload s h
    · exact formantOk_hornSwitch s _ h

theorem formantOk_reset : FormantOk Voice.reset.fmt := voice_reset 0 ▸ formantsBounded_reset 0

/-- Settles O60: a sample clamps every output word it writes (`sectionBounded_secStep`), a trigger zeroes them all, and
a reload or a switch of banks takes them over from a bank of the slot. -/
theorem stepKeepsFormantsBounded : Obligations.StepKeepsFormantsBounded := fun _ _ hs h =>
  step_keeps_voices formantOk_reset voiceKeeps_formantOk hs h

/-! ## The row of hornType (43 R226) -/

/-- A switch loads the new profile into the bank that becomes current, over the old current bank's state words. -/
theorem hornSwitch_bank_new (s : State) (horn : Nat) (v : Voice) :
    (hornSwitch s horn v).fmt.bank (1 - v.fmt.cur) = bankLoad s horn (v.fmt.bank v.fmt.cur) :=
  (bank_setBank v.fmt _ _ _).trans (if_pos rfl)

theorem hornSwitch_bank_old (s : State) (horn : Nat) (v : Voice) :
    (hornSwitch s horn v).fmt.bank v.fmt.cur = v.fmt.bank v.fmt.cur :=
  (bank_setBank v.fmt _ _ _).trans (if_neg (ne_one_sub _))

/-- Everything HORN_SWITCH does to a slot. -/
theorem hornSwitch_slot {s : State} {horn : Nat} {v w : Voice} (h : w = hornSwitch s horn v) :
    w = { v with fmt := w.fmt } ∧ w.fmt.cur = 1 - v.fmt.cur ∧ w.fmt.xf = 256 ∧
      w.fmt.bank v.fmt.cur = v.fmt.bank v.fmt.cur ∧
      w.fmt.bank w.fmt.cur = bankLoad s horn (v.fmt.bank v.fmt.cur) := by
  subst h
  exact ⟨rfl, rfl, rfl, hornSwitch_bank_old s horn v, hornSwitch_bank_new s horn v⟩

theorem bankLoad_congr {s t : State} (horn : Nat) (b : Bank) (hp : s.params = t.params)
    (h : s.sampleRate = t.sampleRate) : bankLoad s horn b = bankLoad t horn b := by
  simp only [bankLoad, fun k => bankSecCoeff_congr horn k hp h]

/-- What a loaded bank is, section by section. -/
theorem sections_of_eq_bankLoad {t : State} {horn : Nat} {b b' : Bank} (h : b' = bankLoad t horn b) :
    b'.s0 = ⟨bankSecCoeff t horn 0, b.s0.h⟩ ∧ b'.s1 = ⟨bankSecCoeff t horn 1, b.s1.h⟩ ∧
      b'.s2 = ⟨bankSecCoeff t horn 2, b.s2.h⟩ ∧ b'.s3 = ⟨bankSecCoeff t horn 3, b.s3.h⟩ := by
  subst h
  exact ⟨rfl, rfl, rfl, rfl⟩

/-- The index of the new profile is the value the write stored. -/
theorem voice_recomputeHorn_setHorn (s : State) (horn : F32) (i : Fin 16) :
    voice (recomputeHorn (setParam s .hornType horn)) i =
      if inUse s i = true ∧ (voice s i).state ≠ .idle then
        hornSwitch (setParam s .hornType horn) (ftoNat horn) (voice s i)
      else voice s i := by
  rw [recomputeHorn, hornIndex, param_setParam_same]
  exact voice_mapLive_of_not_idle _ _ i

/-- Settles O38: the write ends with the recomputation of the row of hornType (`setParam_recomputes`), a switch of banks
in every live slot (`voice_recomputeHorn_setHorn`, `hornSwitch_slot`) that takes its coefficients from the table the
write leaves (`bankLoad_congr`). -/
theorem hornWriteSwitchesBanks : Obligations.HornWriteSwitchesBanks := by
  intro s hprep number horn changed
  obtain ⟨t, hexec⟩ : ∃ t, exec (.setParam 0 0 (paramRow .hornType).id) s = .next t :=
    ⟨_, exec_setParam _ number⟩
  obtain ⟨c, hrow⟩ := setParam_recomputes hprep number changed hexec
  have hslot (i : Fin 16) : voice t i =
      if inUse s i = true ∧ (voice s i).state ≠ .idle then
        hornSwitch (setParam s .hornType horn) (ftoNat horn) (voice s i)
      else voice s i := hrow ▸ voice_recomputeHorn_setHorn s horn i
  have htable (b : Bank) : bankLoad (setParam s .hornType horn) (ftoNat horn) b = bankLoad t (ftoNat horn) b :=
    bankLoad_congr _ _ (hrow ▸ rfl) (hrow ▸ rfl)
  refine ⟨t, hexec, hrow ▸ param_setParam_same s .hornType horn, fun i =>
    ⟨fun idle => (hslot i).trans (if_neg idle), fun used live => ?live⟩⟩
  case live =>
    obtain ⟨frame, current, count, kept, loaded⟩ := hornSwitch_slot ((hslot i).trans (if_pos ⟨used, live⟩))
    exact ⟨frame, current, count, kept, sections_of_eq_bankLoad (loaded.trans (htable _))⟩

end Sys2Proof.Machine
end

section
/-!
PROOFS. One step of a voice (44_voice.md R250, R251): the clamp of its sample (R253), and what it does to the envelope and
the state of the slot and leaves of the note's own fields (R240).
-/

namespace Sys2Proof.Machine

/-! ## The sample (44 R250, R253) -/

/-- The clamp is the last thing done to a sample, and the envelope it scales by is the one before the step. -/
theorem voiceStep_sample (s : State) (v : Voice) : (voiceStep s v).1 =
    fclamp (fmul v.e (voiceChain s v).1) Config.minusTwo Config.two := by rw [voiceStep]

/-- Settles O27: a sample is clamped last (`voiceStep_sample`), and a clamp lies between its bounds whatever its argument
(`within_two_fclamp`). -/
theorem voiceSampleBounded : Obligations.VoiceSampleBounded := by
  intro s v
  rw [voiceStep_sample]
  exact within_two_fclamp _

/-! ## The envelope (44 R240, R251) -/

/-- A live slot attacks toward the velocity while its note is held. -/
theorem envStep_sounding (s : State) {v : Voice} (h : v.state = .sounding) :
    envStep s v = { v with e := fadd v.e (fmul v.aAtt (fsub v.g.velocity v.e)) } := by
  rw [envStep, if_pos h]

/-- A released slot decays, at the fast rate where forceOff is set, and is Idle once it is below SILENCE. -/
theorem envStep_releasing (s : State) {v : Voice} (h : v.state = .releasing) :
    (envStep s v).e = fmul v.e (if v.forceOff then s.rFast else v.rRel) ∧
      (envStep s v).state = if flt (envStep s v).e Config.silence then .idle else .releasing := by
  have hsounding : v.state ≠ .sounding := by simp [h]
  rw [envStep, if_neg hsounding, h]
  exact ⟨rfl, rfl⟩

/-- The stages before the envelope write their own parts of the slot only. -/
theorem voiceChain_frame (s : State) (v : Voice) : (voiceChain s v).2 =
    { v with
      exc := (voiceChain s v).2.exc, wg := (voiceChain s v).2.wg, bell := (voiceChain s v).2.bell
      fmt := (voiceChain s v).2.fmt, pll := (voiceChain s v).2.pll } := rfl

/-- The envelope reads none of the parts that the stages before it write. -/
theorem envStep_voiceChain (s : State) (v : Voice) :
    (envStep s (voiceChain s v).2).e = (envStep s v).e ∧
      (envStep s (voiceChain s v).2).state = (envStep s v).state := by
  rw [voiceChain_frame, envStep, envStep]
  split <;> exact ⟨rfl, rfl⟩

/-- A step writes the parts of the stages, and the envelope and the state as ENV_STEP does; nothing else of the slot. -/
theorem voiceStep_frame (s : State) (v : Voice) : (voiceStep s v).2 =
    { v with
      e := (envStep s v).e, state := (envStep s v).state
      exc := (voiceChain s v).2.exc, wg := (voiceChain s v).2.wg, bell := (voiceChain s v).2.bell
      fmt := (voiceChain s v).2.fmt, pll := (voiceChain s v).2.pll } := by
  obtain ⟨henv, hstate⟩ := envStep_voiceChain s v
  rw [voiceStep, envStep_frame, henv, hstate, voiceChain_frame]

/-- Settles O28: a step does to the envelope and the state what ENV_STEP does (`voiceStep_frame`), which is the attack
while Sounding (`envStep_sounding`) and the decay while Releasing (`envStep_releasing`). -/
theorem envelopeStep : Obligations.EnvelopeStep := by
  intro s v t
  have ht : t = _ := voiceStep_frame s v
  rw [ht]
  refine ⟨fun sounding => ?attack, fun releasing => envStep_releasing s releasing, rfl, rfl, rfl, rfl, rfl, rfl, rfl⟩
  case attack =>
    rw [envStep_sounding s sounding]
    exact ⟨sounding, rfl⟩

end Sys2Proof.Machine
end

section
/-!
PROOFS. NOTE_ON_NOW with every slot in use busy (45_commands.md R272, R273, R277, R298): the allocation steals the oldest
slot, and a steal followed by its trigger leaves ACTIVE_COUNT as it was.
-/

namespace Sys2Proof.Machine

/-! ## The slot a steal takes -/

/-- The slot of an ascending list that is older than every other one, or as old and lower, is the oldest one (45 R273). -/
theorem oldest_eq_some {s : State} {l : List (Fin 16)} {i : Fin 16} (hl : l.Pairwise (· < ·)) (hi : i ∈ l)
    (hmax : ∀ j ∈ l, age s j < age s i ∨ (age s j = age s i ∧ i ≤ j)) : oldest s l = some i := by
  have hne : oldest s l ≠ none := fun hnone => List.ne_nil_of_mem hi ((oldest_none s l).mp hnone)
  obtain ⟨k, hk⟩ := Option.ne_none_iff_exists'.mp hne
  obtain ⟨hkl, hkmax⟩ := oldest_some s l k hk
  have hik : age s i ≤ age s k := hkmax i hi
  obtain hlt | ⟨heq, hle⟩ := hmax k hkl
  · omega
  · rw [hk, le_antisymm (oldest_lowest s l k hl hk i hi heq.symm) hle]

theorem slotsIn_eq_nil {s : State} {st : VoiceState} (h : ∀ j, inUse s j = true → (voice s j).state ≠ st) :
    slotsIn s st = [] :=
  List.eq_nil_iff_forall_not_mem.mpr fun j hj =>
    let ⟨hused, hstate⟩ := (mem_slotsIn s st j).mp hj
    h j hused hstate

/-- A steal takes the oldest Releasing slot, or where none is Releasing the oldest Sounding one (45 R277). -/
theorem stealSlot_eq_some {s : State} {st : VoiceState} {i : Fin 16} (hold : oldest s (slotsIn s st) = some i)
    (hst : st = .releasing ∨ (st = .sounding ∧ slotsIn s .releasing = [])) : stealSlot s = some i := by
  obtain rfl | ⟨rfl, hnone⟩ := hst
  · simp only [stealSlot, hold]
  · simp only [stealSlot, hnone, oldest, hold]

/-- Where no slot in use is Idle the allocation steals (45 R272). -/
theorem alloc_steal {s : State} {i : Fin 16} (hbusy : slotsIn s .idle = []) (hsteal : stealSlot s = some i) :
    alloc s = some (i, forceIdle s i) := by
  simp only [alloc, hbusy, hsteal]

/-! ## ACTIVE_COUNT (10 R51) -/

/-- ACTIVE_COUNT reads of the state only which slots are in use and which are active. -/
theorem activeCount_congr {s t : State} (hcfg : t.maxVoicesCfg = s.maxVoicesCfg)
    (hactive : ∀ j, (voice t j).active = (voice s j).active) : activeCount t = activeCount s := by
  simp only [activeCount, inUse, hcfg, hactive]

theorem busRead_activeCount (s : State) : busRead s 0x018 = BitVec.ofNat 32 (activeCount s) :=
  busRead_regOffset s .activeCount

/-- Settles O49: the oldest slot is the one the steal takes (`oldest_eq_some`, `stealSlot_eq_some`), NOTE_ON_NOW triggers
the slot of the allocation (`noteOnNow_triggers`), and that slot is active before and after. -/
theorem noteOnNowStealsTheOldestSlot : Obligations.NoteOnNowStealsTheOldestSlot := by
  intro s note i st hprep number hpos used since hbusy hused hstate hst hmax
  have slots_nil {st' : VoiceState} (h : ∀ j, used j → (voice s j).state ≠ st') : slotsIn s st' = [] :=
    slotsIn_eq_nil fun j hj => h j (of_decide_eq_true hj)
  have hold : oldest s (slotsIn s st) = some i := by
    refine oldest_eq_some (slotsIn_pairwise s st)
      ((mem_slotsIn s st i).mpr ⟨decide_eq_true hused, hstate⟩) fun j hj => ?_
    obtain ⟨hj, hjstate⟩ := (mem_slotsIn s st j).mp hj
    exact hmax j (of_decide_eq_true hj) hjstate
  have halloc : alloc s = some (i, forceIdle s i) :=
    alloc_steal (slots_nil hbusy) (stealSlot_eq_some hold (hst.imp_right fun h => ⟨h.1, slots_nil h.2⟩))
  obtain ⟨t, hexec, hframe, hslot, hother⟩ := noteOnNow_triggers (note := note) hprep number hpos halloc
  have hactive (j : Fin 16) : (voice t j).active = (voice s j).active := by
    by_cases hj : j = i
    · subst hj
      have hbefore : (voice s j).active = true := bne_iff_ne.mpr (hbusy j hused)
      rw [hslot, hbefore]
      rfl
    · rw [hother j hj]
  have hcount : activeCount t = activeCount s := activeCount_congr (hframe ▸ rfl) hactive
  exact ⟨t, hexec, hframe, hslot, hother, by rw [busRead_activeCount, busRead_activeCount, hcount]⟩

end Sys2Proof.Machine
end

section
/-!
PROOFS. The note-offs that act at once (45_commands.md R278, R279, R298, R299): every live slot of the note is released
(44_voice.md R246), and nothing else changes.
-/

namespace Sys2Proof.Machine

/-! ## A release, state by state (44 R246) -/

theorem release_idle (forceOff : Bool) {v : Voice} (h : v.state = .idle) : release forceOff v = v := by
  simp only [release, h]

theorem release_sounding (forceOff : Bool) {v : Voice} (h : v.state = .sounding) :
    release forceOff v = { v with state := .releasing, forceOff := forceOff } := by
  simp only [release, h]

theorem release_releasing (forceOff : Bool) {v : Voice} (h : v.state = .releasing) :
    release forceOff v = { v with forceOff := v.forceOff || forceOff } := by
  simp only [release, h]

/-- A release leaves an Idle slot as it is, so a note-off releases every slot in use of its note, live or not. -/
theorem voice_noteOffExec_release (s : State) (note : BitVec 7) (forceOff : Bool) (i : Fin 16) :
    voice (noteOffExec s note forceOff) i =
      if inUse s i = true ∧ (voice s i).note = note then release forceOff (voice s i) else voice s i := by
  rw [voice_noteOffExec]
  by_cases hidle : (voice s i).state = .idle
  · simp only [release_idle forceOff hidle, ite_self]
  · have hactive : (voice s i).active = true := bne_iff_ne.mpr hidle
    simp only [hactive, true_and]

/-! ## The two commands -/

/-- A command whose rule is a note-off ends with OK, ERROR and all but the voice table as before. -/
theorem finish_noteOffExec (s : State) (note : BitVec 7) (forceOff : Bool) :
    finish s (.done (noteOffExec s note forceOff) false) =
      { s with result := .ok, voices := (noteOffExec s note forceOff).voices } := by
  rw [finish_done, endCommand_ok, noteOffExec_frame]

theorem exec_noteOffNow {s : State} (note : BitVec 7) (f : BitVec 1) (hprep : s.prepared = true) :
    exec (.noteOffNow 0 note f 0) s = .next (finish s (.done (noteOffExec s note (f == 1)) false)) := by
  simp only [exec_run, run, runNoteOffNow, hprep, ne_eq, not_true_eq_false, or_self, Bool.not_true,
    Bool.false_eq_true, if_false]

/-- NOTE_ON_NOW with a velocity at or below zero is a note-off (45 R279). -/
theorem exec_noteOnNow_off {s : State} (note : BitVec 7) (hprep : s.prepared = true)
    (number : ∀ k : Fin 9, fisNaN (argValue s k) = false) (hoff : fle (argValue s 0) Config.zero = true) :
    exec (.noteOnNow 0 note 0) s = .next (finish s (.done (noteOffExec s note false) false)) := by
  simp only [exec_run, run, runNoteOnNow, hprep, gestureCheck_off number hoff, ne_eq, not_true_eq_false, or_self,
    Bool.not_true, Bool.false_eq_true, if_false]

/-- Settles O50: both commands end a note-off (`exec_noteOffNow`, `exec_noteOnNow_off`), which writes the voice table only
(`finish_noteOffExec`) and releases each slot of the note by its state (`voice_noteOffExec_release`). -/
theorem noteOffNowReleasesEveryMatch : Obligations.NoteOffNowReleasesEveryMatch := by
  intro s note f hprep released
  have releases (forceOff : Bool) :
      released forceOff (finish s (.done (noteOffExec s note forceOff) false)) := by
    rw [finish_noteOffExec]
    refine ⟨rfl, fun i => (voice_noteOffExec_release s note forceOff i).trans (if_congr Iff.rfl ?_ rfl)⟩
    split
    · next hidle => exact release_idle forceOff hidle
    · next hsounding => exact release_sounding forceOff hsounding
    · next hreleasing => exact release_releasing forceOff hreleasing
  exact ⟨⟨_, exec_noteOffNow note f hprep, releases _⟩,
    fun number hoff => ⟨_, exec_noteOnNow_off note hprep number hoff, releases _⟩⟩

end Sys2Proof.Machine
end

section
/-!
PROOFS. Every step keeps the words of OUT within [−3.0, 3.0] (45_commands.md R285). What the host reads there is
memory alone, and of what writes memory a block writes clamped sums, PREPARE zeros, and the host and SAVE_PARAMS words
of PRESET.
-/

namespace Sys2Proof.Machine

/-- Every word of OUT in memory lies in [−SUM_LIM, SUM_LIM]. -/
def OutOk (m : Memory) : Prop :=
  ∀ c k, c < Config.maxChannels → k < Config.maxBlock →
    within Config.minusSumLim Config.sumLim (readWord m (outAddr c k)) = true

theorem outputBounded_iff (s : State) : OutputBounded s ↔ OutOk s.mem :=
  forall₄_congr fun _ _ hc hk => by rw [outWord_eq s hc hk]

/-- The words of different channels of a frame do not overlap. -/
theorem outAddr_disjoint_channels {c c' : Nat} (hne : c ≠ c') (k : Nat) :
    outAddr c k + 4 ≤ outAddr c' k ∨ outAddr c' k + 4 ≤ outAddr c k := by
  simp only [outAddr, outStride]
  omega

/-- A store outside OUT keeps its words. -/
theorem outOk_writeWord {m : Memory} {a : Nat} (w : Word) (ha : a + 4 ≤ outBase ∨ outEnd ≤ a) (h : OutOk m) :
    OutOk (writeWord m a w) := by
  intro c k hc hk
  obtain ⟨hlo, hhi⟩ := outAddr_window hc hk
  rw [readWord_writeWord_disjoint _ _ _ _ (by omega)]
  exact h c k hc hk

/-- Memory whose OUT is cleared reads zero there. -/
theorem readWord_clearOut (m : Memory) {c k : Nat} (hc : c < Config.maxChannels) (hk : k < Config.maxBlock) :
    readWord (clearOut m) (outAddr c k) = 0 := by
  obtain ⟨hlo, hhi⟩ := outAddr_window hc hk
  have zero (b : Nat) (hb : outAddr c k ≤ b) (hb' : b < outAddr c k + 4) : readByte (clearOut m) b = 0 :=
    readByte_clearOut_inside m b (by omega) (by omega)
  rw [readWord, zero _ (by omega) (by omega), zero _ (by omega) (by omega), zero _ (by omega) (by omega),
    zero _ (by omega) (by omega)]
  decide

/-- A block leaves every word of OUT that is not its own as it was. -/
theorem readWord_frames_outside {channels n : Nat} (hn : n ≤ Config.maxBlock) (s : State) {c k : Nat}
    (hk : k < Config.maxBlock) (hout : ¬ (c < channels ∧ k < n)) :
    readWord (frames channels n s).mem (outAddr c k) = readWord s.mem (outAddr c k) := by
  refine readWord_congr fun b hlo hhi => readByte_frames_outside channels n s b fun c' k' hc' hk' => ?_
  by_cases hkk : k = k'
  · subst hkk
    have := outAddr_disjoint_channels (c := c) (c' := c') (by omega) k
    omega
  · have := outAddr_disjoint hk (hk'.trans_le hn) hkk c c'
    omega

/-- A block writes clamped sums to its words. -/
theorem outOk_frames {channels n : Nat} (hn : n ≤ Config.maxBlock) {s : State} (h : OutOk s.mem) :
    OutOk (frames channels n s).mem := by
  intro c k hc hk
  by_cases hin : c < channels ∧ k < n
  · rw [readWord_frames hn s hin.1 hin.2]
    exact within_fclamp (by decide) (by decide) (by decide) _
  · rw [readWord_frames_outside hn s hk hin]
    exact h c k hc hk

theorem Effect.outOk {s t : State} {i : Instr} (he : Effect s i t) (h : OutOk s.mem) : OutOk t.mem := by
  by_cases hm : t.mem = s.mem
  · rwa [hm]
  rcases he.writes.mem hm with ⟨v, b, rfl⟩ | ⟨channels, n, rfl⟩ | ⟨a, b, rfl⟩ <;> cases he
  case prepare =>
    intro c k hc hk
    rw [deriveGlobals_mem, prepareBase_mem, readWord_clearOut _ hc hk]
    decide
  case process fields => exact outOk_frames (processFieldsOk_bounds fields).2 h
  case saveParams =>
    refine writePreset_keeps (P := OutOk) 64 (fun m i w _ hm => outOk_writeWord w (.inr ?_) hm) s.mem 0 _ ?_ h
    · simp only [presetAddr, presetBase, outEnd]
      omega
    · rw [presetImage_length]
      decide
  all_goals exact h

/-- Settles O58: the words of OUT are memory's (`outputBounded_iff`), and each effect of a command keeps them bounded
(`Effect.outOk`), as a store of the host to PRESET does (`outOk_writeWord`). -/
theorem stepKeepsOutputBounded : Obligations.StepKeepsOutputBounded := by
  intro s t hs h
  rw [outputBounded_iff] at hs ⊢
  refine step_keeps (P := fun s => OutOk s.mem) (fun _ _ _ _ _ _ _ _ h => h)
    ((outputBounded_iff _).mp outputBounded_reset) (fun s a w hlo _ hs => ?preset) (fun _ _ _ he => he.outOk) hs h
  case preset => exact outOk_writeWord w (.inr (by unfold outEnd; unfold presetBase at hlo; omega)) hs

end Sys2Proof.Machine
end

section
/-!
PROOFS. The commands that finish in one move (45_commands.md R270, R291, R296, R297): a header of a defined OP is run by
the write to CMD, NOP does nothing, GET_PARAM reads the table, and both parameter commands refuse an id that no row has.
-/

namespace Sys2Proof.Machine

/-- Settles O5: the write to CMD is an EXECUTE of its word (`step_write_cmd`), which runs what the word decodes to. -/
theorem stepRunsDecodedCommand : Obligations.StepRunsDecodedCommand := by
  intro s w i rest h hdecode
  rw [step_write_cmd h rfl, execute, hdecode]

/-- A command whose rule fails changes RESULT and ERROR only. -/
theorem exec_failed {i : Instr} {s : State} {c : ResultCode} (h : run i s = .failed c) :
    exec i s = .next { s with result := c, error := s.error ||| errorBit c } := by
  rw [exec_run, h]
  rfl

/-- A command whose rule has its whole effect, nothing clamped, ends with OK and sets no ERROR bit. -/
theorem exec_done {i : Instr} {s t : State} (h : run i s = .done t false) :
    exec i s = .next { t with result := .ok } := by
  rw [exec_run, h, finish_done, endCommand_ok]

/-- Settles O21: the one well-formed NOP is the word zero, and it is done as it began (`exec_done`); another is refused
for its reserved bits (`exec_failed`). -/
theorem nopCompletes : Obligations.NopCompletes := by
  intro s a b
  have hdone : run (.nop 0 0) s = .done s false := rfl
  refine ⟨handWrittenHeadersDecode.1, exec_done hdone, fun hne => ?_⟩
  have hfailed : run (.nop a b) s = .failed .badField := if_pos (not_and_or.mp hne)
  exact exec_failed hfailed

/-- Settles O40: the id of a row stands for that row (`paramOfId_id`), whose stored word is the only write. -/
theorem getParamCompletes : Obligations.GetParamCompletes := by
  intro s p
  refine exec_done (t := { s with rdata := param s p }) ?_
  simp only [run, runGetParam, paramOfId_id, ne_eq, not_true_eq_false, or_self, if_false]

/-! ## Unknown ids (45 R296) -/

/-- The ids that R296 lists as unknown. -/
def UnlistedId (id : BitVec 8) : Prop :=
  id = 0x0E ∨ id = 0x0F ∨ (0x19 ≤ id.toNat ∧ id.toNat ≤ 0x1F) ∨ 0x28 ≤ id.toNat

theorem paramRow_id_listed (p : Param) : ¬ UnlistedId (paramRow p).id := by
  unfold UnlistedId
  cases p <;> decide

theorem paramOfId_unlisted {id : BitVec 8} (h : UnlistedId id) : paramOfId id = none := by
  cases hp : paramOfId id with
  | none => rfl
  | some p => exact absurd (paramOfId_some hp ▸ h) (paramRow_id_listed p)

/-- Settles O36: no row has such an id (`paramOfId_unlisted`), so the lookup of either command refuses it. -/
theorem unknownParamRefused : Obligations.UnknownParamRefused := by
  intro s id hid
  have hnone : paramOfId id = none := paramOfId_unlisted hid
  refine ⟨exec_failed (c := .unknownParam) ?_, exec_failed (c := .unknownParam) ?_⟩
  · simp only [run, runSetParam, hnone, ne_eq, not_true_eq_false, or_self, if_false]
  · simp only [run, runGetParam, hnone, ne_eq, not_true_eq_false, or_self, if_false]

end Sys2Proof.Machine
end

section
/-!
PROOFS. The event queue (45_commands.md R280, R281, R294): where an event is inserted, that NOTE_OFF inserts one, and that
a full queue takes none.
-/

namespace Sys2Proof.Machine

/-- Settles O47: along the queue the event goes past a queued one exactly while one not later than it is still to
come. -/
theorem eventGoesAfterTheLastNotLater : Obligations.EventGoesAfterTheLastNotLater := by
  intro ev q
  induction q with
  | nil => exact ⟨[], [], rfl, rfl, .inl rfl, by simp⟩
  | cons r rest ih =>
    by_cases hany : (r :: rest).any (fun x => x.offset ≤ ev.offset) = true
    · obtain ⟨before, after, hq, hinsert, hlast, hafter⟩ := ih
      refine ⟨r :: before, after, by rw [hq]; rfl, by rw [insertEvent, if_pos hany, hinsert]; rfl, .inr ?_, hafter⟩
      rcases hlast with rfl | ⟨l, hl, hle⟩
      · obtain ⟨x, hx, hle⟩ := List.any_eq_true.mp hany
        have hle : x.offset ≤ ev.offset := of_decide_eq_true hle
        rcases List.mem_cons.mp hx with rfl | hx
        · exact ⟨x, rfl, hle⟩
        · rw [hq] at hx
          exact absurd hle (hafter x hx)
      · exact ⟨l, by rw [List.getLast?_cons, hl]; rfl, hle⟩
    · refine ⟨[], r :: rest, rfl, by rw [insertEvent, if_neg hany]; rfl, .inl rfl, fun x hx hle => hany ?_⟩
      exact List.any_eq_true.mpr ⟨x, hx, decide_eq_true hle⟩

/-- A well-formed NOTE_OFF of a prepared core enqueues a note-off where there is room (45 R294). -/
theorem run_noteOff {s : State} (note : BitVec 7) (f : BitVec 1) (ofs : BitVec 15) (hprep : s.prepared = true) :
    run (.noteOff 0 note f ofs) s = tryEnqueue (.noteOff (f == 1)) note ofs false s := by
  simp only [run, runNoteOff, hprep, ne_eq, not_true_eq_false, Bool.not_true, Bool.false_eq_true, if_false]

/-- Settles O45: the queue has room for the event (`tryEnqueue_room`). -/
theorem noteOffCompletes : Obligations.NoteOffCompletes := by
  intro s note f ofs hprep hroom
  exact exec_done ((run_noteOff note f ofs hprep).trans (tryEnqueue_room hroom _ note ofs false))

/-! ## A full queue (45 R281) -/

theorem tryEnqueue_full {s : State} (hfull : s.queue.length = 64) (kind : EventKind) (note : BitVec 7)
    (ofs : BitVec 15) (clamped : Bool) : tryEnqueue kind note ofs clamped s = .failed .eqFull :=
  if_pos (by simp [queueFull, hfull])

/-- NOTE_ON of nine numbers enqueues one event or the other, so a full queue refuses it whatever the velocity. -/
theorem run_noteOn_full {s : State} (note : BitVec 7) (ofs : BitVec 15) (hprep : s.prepared = true)
    (number : ∀ k : Fin 9, fisNaN (argValue s k) = false) (hfull : s.queue.length = 64) :
    run (.noteOn 0 note 0 ofs) s = .failed .eqFull := by
  cases hvel : fle (argValue s 0) Config.zero with
  | true =>
    simp only [run, runNoteOn, hprep, gestureCheck_off number hvel, tryEnqueue_full hfull, ne_eq, not_true_eq_false,
      or_self, Bool.not_true, Bool.false_eq_true, if_false]
  | false =>
    simp only [run, runNoteOn, hprep, gestureCheck_on number hvel, tryEnqueue_full hfull, ne_eq, not_true_eq_false,
      or_self, Bool.not_true, Bool.false_eq_true, if_false]

theorem busRead_status_full {s : State} (hfull : s.queue.length = 64) : (busRead s 0x008).getLsbD 2 = true := by
  have hstatus : busRead s 0x008 = statusWord s := busRead_regOffset s .status
  rw [hstatus, statusWord, BitVec.getLsbD_or, if_pos hfull.ge]
  exact Bool.or_true _

/-- A command that is none of PREPARE, PROCESS, NOTE_ON and NOTE_OFF leaves the queue and NEXT_SEQ. -/
theorem exec_queue_of_not_queueing {i : Instr} {s t : State} (h : exec i s = .next t)
    (hprepare : ∀ v b, i ≠ .prepare v b) (hprocess : ∀ c n, i ≠ .process c n)
    (hon : ∀ r n f o, i ≠ .noteOn r n f o) (hoff : ∀ r n f o, i ≠ .noteOff r n f o) :
    t.queue = s.queue ∧ t.nextSeq = s.nextSeq := by
  obtain ⟨u, c, he, rfl⟩ := exec_effect h
  refine ⟨not_not.mp fun hne => ?_, not_not.mp fun hne => ?_⟩
  · rcases he.writes.queue hne with ⟨v, b, hi⟩ | ⟨c, n, hi⟩ | ⟨r, n, f, o, hi⟩ | ⟨r, n, f, o, hi⟩
    · exact hprepare v b hi
    · exact hprocess c n hi
    · exact hon r n f o hi
    · exact hoff r n f o hi
  · rcases he.writes.nextSeq hne with ⟨v, b, hi⟩ | ⟨r, n, f, o, hi⟩ | ⟨r, n, f, o, hi⟩
    · exact hprepare v b hi
    · exact hon r n f o hi
    · exact hoff r n f o hi

/-- Settles O46: STATUS shows the full queue (`busRead_status_full`), whose room both commands ask for (`tryEnqueue_full`);
the immediate forms are not among the commands that write the queue (`exec_queue_of_not_queueing`). -/
theorem queueFullRefused : Obligations.QueueFullRefused := by
  intro s note ofs f hprep
  refine ⟨fun hfull => ⟨busRead_status_full hfull, fun number => ?noteOn, ?noteOff⟩, ?immediate⟩
  case noteOn => exact exec_failed (run_noteOn_full note ofs hprep number hfull)
  case noteOff => exact exec_failed ((run_noteOff note f ofs hprep).trans (tryEnqueue_full hfull _ note ofs false))
  case immediate =>
    rintro t (h | h)
    · exact exec_queue_of_not_queueing h nofun nofun nofun nofun
    · exact exec_queue_of_not_queueing h nofun nofun nofun nofun

end Sys2Proof.Machine
end

section
/-!
PROOFS. PREPARE (45_commands.md R290): what it leaves of the whole state, and that a second one with the same operands
finds nothing left to do.
-/

namespace Sys2Proof.Machine

/-- The state a PREPARE that passes its checks leaves. -/
def preparedState (voices : BitVec 8) (block : BitVec 16) (s : State) : State :=
  deriveGlobals (prepareBase voices block (argValue s 0) s)

/-- Everything the rule of PREPARE can do, by its two checks. -/
theorem run_prepare (voices : BitVec 8) (block : BitVec 16) (s : State) : run (.prepare voices block) s =
    if prepareFieldsOk voices block && sampleRateOk (argValue s 0) then .done (preparedState voices block s) false
    else .failed .badField := by
  rw [run, runPrepare, preparedState]
  cases prepareFieldsOk voices block <;> cases sampleRateOk (argValue s 0) <;> rfl

/-! ## Once -/

/-- M is the rounded delay clamped to [1, CAP − 1], which 15 bits hold (42 R191). -/
theorem toNat_delayOf (s : State) : ((delayOf s).toNat : Int) =
    min (max (rneInt (fdiv (fmul (param s .lengthMeters) s.sampleRate) Config.cSound)) 1) 32767 := by
  simp only [delayOf, BitVec.toNat_ofNat, Config.cap]
  omega

theorem voice_preparedState (voices : BitVec 8) (block : BitVec 16) (s : State) (j : Fin 16) :
    voice (preparedState voices block s) j = { voice s j with state := .idle, forceOff := false } :=
  voice_prepare voices block (argValue s 0) s j

theorem mem_preparedState (voices : BitVec 8) (block : BitVec 16) (s : State) :
    (preparedState voices block s).mem = clearOut s.mem := by
  rw [preparedState, deriveGlobals_mem, prepareBase_mem]

/-- Settles O22: the operands pass both checks (`run_prepare`), and the state left is read field by field. -/
theorem prepareCompletes : Obligations.PrepareCompletes := by
  intro s voices block hv1 hv2 hb1 hb2 number hmin hmax fs len
  have hchecks : (prepareFieldsOk voices block && sampleRateOk (argValue s 0)) = true := by
    simp [prepareFieldsOk, sampleRateOk, hv1, hv2, hb1, hb2, number, hmin, hmax]
  have hrun := run_prepare voices block s
  rw [if_pos hchecks] at hrun
  refine ⟨_, exec_done hrun, rfl, toNat_delayOf (prepareBase voices block fs s), voice_preparedState voices block s,
    fun a hlo hhi => ?cleared, fun a hout => ?kept⟩
  case cleared => exact mem_preparedState voices block s ▸ readByte_clearOut_inside s.mem a hlo hhi
  case kept => exact mem_preparedState voices block s ▸ readByte_clearOut_outside s.mem a hout

/-! ## Twice -/

/-- What PREPARE sets it sets again, and the globals are derived from what it leaves as it is. -/
theorem preparedState_idem (voices : BitVec 8) (block : BitVec 16) (s : State) :
    preparedState voices block { preparedState voices block s with result := .ok } =
      { preparedState voices block s with result := .ok } := by
  have hvoices : (preparedState voices block { preparedState voices block s with result := .ok }).voices =
      (preparedState voices block s).voices :=
    voices_ext fun j => by
      rw [voice_preparedState, voice_preparedState]
      exact congrArg (fun v : Voice => { v with state := .idle, forceOff := false })
        (voice_preparedState voices block s j)
  have hmem : (preparedState voices block { preparedState voices block s with result := .ok }).mem =
      (preparedState voices block s).mem := by
    simp only [mem_preparedState, clearOut_idem]
  generalize hu : preparedState voices block { preparedState voices block s with result := .ok } = u at *
  have hframe : u = { preparedState voices block s with result := .ok, voices := u.voices, mem := u.mem } := hu ▸ rfl
  rw [hframe, hvoices, hmem]

/-- A failure ends the same way when its command is issued again. -/
theorem endCommand_idem (s : State) (c : ResultCode) : endCommand (endCommand s c) c = endCommand s c := by
  have hbits : s.error ||| errorBit c ||| errorBit c = s.error ||| errorBit c := by rw [BitVec.or_assoc, BitVec.or_self]
  simp only [endCommand, hbits]

/-- Settles O23: neither outcome of the rule changes what its checks read; the second success leaves the state as the
first did (`preparedState_idem`), the second failure as well (`endCommand_idem`). -/
theorem prepareTwiceIsOnce : Obligations.PrepareTwiceIsOnce := by
  intro s t voices block h
  by_cases hchecks : (prepareFieldsOk voices block && sampleRateOk (argValue s 0)) = true
  · have first := exec_done ((run_prepare voices block s).trans (if_pos hchecks))
    obtain rfl := Host.Outcome.next.inj (first.symm.trans h)
    have second := exec_done ((run_prepare voices block { preparedState voices block s with result := .ok }).trans
      (if_pos hchecks))
    rw [second, preparedState_idem]
  · have first := exec_failed ((run_prepare voices block s).trans (if_neg hchecks))
    obtain rfl := Host.Outcome.next.inj (first.symm.trans h)
    have second := exec_failed ((run_prepare voices block (endCommand s .badField)).trans (if_neg hchecks))
    exact second.trans (congrArg _ (endCommand_idem s .badField))

end Sys2Proof.Machine
end

section
/-!
PROOFS. The events of a block (45_commands.md R282, R283): in a queue ordered by offset those due at a frame stand at its
front, so that draining them is filtering by offset; and a block that applies none and has no live slot (R284).
-/

namespace Sys2Proof.Machine

/-! ## A front of the queue is a filter of it -/

/-- Where no event is due before frame n and the queue is ordered, those due at n are its front. -/
theorem takeWhile_due_eq_filter {n : Nat} {q : List Event} (h : DueFrom n q) :
    (q.takeWhile fun ev => ev.offset.toNat = n) = q.filter fun ev => ev.offset.toNat = n := by
  induction q with
  | nil => rfl
  | cons ev rest ih =>
    obtain ⟨hsorted, hdue⟩ := h
    obtain ⟨hev, hrest⟩ := List.pairwise_cons.mp hsorted
    by_cases hn : ev.offset.toNat = n
    · rw [List.takeWhile_cons_of_pos (by simpa using hn), List.filter_cons_of_pos (by simpa using hn),
        ih ⟨hrest, fun r hr => hdue r (by simp [hr])⟩]
    · rw [List.takeWhile_cons_of_neg (by simpa using hn), eq_comm, List.filter_eq_nil_iff]
      intro r hr
      have hlow := hdue ev (by simp)
      rcases List.mem_cons.mp hr with rfl | hr
      · simpa using hn
      · have : ev.offset.toNat ≤ r.offset.toNat := hev r hr
        simp only [decide_eq_true_eq]
        omega

/-- With the events due at frame n drained, those from frame n + 1 on are left. -/
theorem dropWhile_due_eq_filter {n : Nat} {q : List Event} (h : DueFrom n q) :
    (q.dropWhile fun ev => ev.offset.toNat = n) = q.filter fun ev => n + 1 ≤ ev.offset.toNat := by
  have hsplit := congrArg (List.filter fun ev : Event => n + 1 ≤ ev.offset.toNat)
    (List.takeWhile_append_dropWhile (p := fun ev : Event => ev.offset.toNat = n) (l := q))
  have hfront : (q.takeWhile fun ev => ev.offset.toNat = n).filter (fun ev => n + 1 ≤ ev.offset.toNat) = [] := by
    rw [takeWhile_due_eq_filter h, List.filter_eq_nil_iff]
    intro ev hev
    have : ev.offset.toNat = n := of_decide_eq_true (List.mem_filter.mp hev).2
    simp only [decide_eq_true_eq]
    omega
  rw [← hsplit, List.filter_append, hfront, List.nil_append, eq_comm, List.filter_eq_self]
  exact fun ev hev => decide_eq_true ((dueFrom_dropWhile h).2 ev hev)

/-- After n frames the events due from frame n on are left, in their order (45 R283). -/
theorem frames_queue_eq_filter (channels n : Nat) {s : State} (h : QueueLegal s) :
    (frames channels n s).queue = s.queue.filter fun ev => n ≤ ev.offset.toNat := by
  induction n with
  | zero => exact (List.filter_eq_self.mpr fun _ _ => decide_eq_true (Nat.zero_le _)).symm
  | succ k ih =>
    have hdue := (frames_queue channels k h).1
    rw [frames_succ, frame_queue, dropWhile_due_eq_filter hdue, ih, List.filter_filter]
    refine List.filter_congr fun ev _ => ?_
    rw [← Bool.decide_and]
    exact decide_eq_decide.mpr ⟨fun h => h.1, fun h => ⟨h, by omega⟩⟩

/-- The events applied at frame k of a block are those of the queue before it whose offset is k. -/
theorem frames_due_eq_filter (channels k : Nat) {s : State} (h : QueueLegal s) :
    ((frames channels k s).queue.takeWhile fun ev => ev.offset.toNat = k) =
      s.queue.filter fun ev => ev.offset.toNat = k := by
  rw [takeWhile_due_eq_filter (frames_queue channels k h).1, frames_queue_eq_filter channels k h, List.filter_filter]
  refine List.filter_congr fun ev _ => ?_
  rw [← Bool.decide_and]
  exact decide_eq_decide.mpr ⟨fun h => h.1, fun h => ⟨h, h.ge⟩⟩

/-- The carry-over lowers an offset that is at least n by n (45 R282). -/
theorem offset_sub {n : Nat} {k : BitVec 15} (hn : n ≤ k.toNat) :
    k - BitVec.ofNat 15 n = BitVec.ofNat 15 (k.toNat - n) := by
  have := k.isLt
  apply BitVec.eq_of_toNat_eq
  rw [BitVec.toNat_sub, BitVec.toNat_ofNat, BitVec.toNat_ofNat]
  omega

/-- After a block the events it did not apply are queued in their order, their offsets lowered (45 R282). -/
theorem frameLoop_queue (channels n : Nat) {s : State} (h : QueueLegal s) : (frameLoop channels n s).queue =
    (s.queue.filter fun ev => n ≤ ev.offset.toNat).map fun ev =>
      { ev with offset := BitVec.ofNat 15 (ev.offset.toNat - n) } := by
  rw [frameLoop, carryOver_queue, frames_queue_eq_filter channels n h]
  refine List.map_congr_left fun ev hev => ?_
  rw [offset_sub (of_decide_eq_true (List.mem_filter.mp hev).2)]

/-- A PROCESS that ends with OK has run its block. -/
theorem process_of_result_ok {s t : State} {channels : BitVec 8} {n : BitVec 16}
    (h : exec (.process channels n) s = .next t) (hok : t.result = .ok) :
    t = endCommand (frameLoop channels.toNat n.toNat s) .ok := by
  obtain rfl := exec_next h
  simp only [run, runProcess] at hok ⊢
  split at hok
  · cases hok
  · split at hok
    · cases hok
    · split at hok
      · cases hok
      · next hfields hprep hblock => rw [if_neg hfields, if_neg hprep, if_neg hblock, finish_done]

/-- Settles O25: the machine's loop is the rule's (`frames_rule`); what it applies at a frame and what it leaves are
filters of the ordered queue (`frames_due_eq_filter`, `frameLoop_queue`). -/
theorem processCarriesEventsOver : Obligations.ProcessCarriesEventsOver := by
  intro s t channels n hqueue h hok
  obtain rfl := process_of_result_ok h hok
  exact ⟨frameLoop_queue channels.toNat n.toNat hqueue, fun k => frames channels.toNat k s, drained channels.toNat s,
    frames_rule _ _ s, rfl, rfl, fun k _ => frames_due_eq_filter channels.toNat k hqueue⟩

/-! ## A silent block (45 R284) -/

/-- Nothing is drained from a queue with no event due at the frame. -/
theorem drainDue_of_none_due {n : Nat} {q : List Event} (hdue : ∀ ev ∈ q, ev.offset.toNat ≠ n) (s : State) :
    drainDue n q s = s := by
  cases q with
  | nil => rfl
  | cons ev rest => rw [drainDue, if_neg (hdue ev List.mem_cons_self)]

theorem clipAfter_zero (count : BitVec 32) : clipAfter count Config.zero = count := if_pos (by decide)

/-- A frame with no event due and no live slot writes +0.0 and counts itself. -/
theorem frame_silent (channels : Nat) {n : Nat} {s : State}
    (hidle : ∀ i, inUse s i = true → (voice s i).active = false)
    (hdue : ∀ ev ∈ s.queue, ev.offset.toNat ≠ n) :
    frame channels s n =
      { s with mem := writeOut s.mem channels n (engineClamp Config.zero), sampleCount := s.sampleCount + 1 } := by
  rw [frame, drainDue_of_none_due hdue, emitFrame, mixVoices_silent s hidle]
  simp only [clipAfter_zero]

/-- A block with no event due and no live slot changes memory and SAMPLE_COUNT only. -/
theorem frames_silent (channels : Nat) {n : Nat} {s : State}
    (hidle : ∀ i, inUse s i = true → (voice s i).active = false)
    (hdue : ∀ ev ∈ s.queue, n ≤ ev.offset.toNat) :
    ∃ m c, frames channels n s = { s with mem := m, sampleCount := c } := by
  induction n with
  | zero => exact ⟨s.mem, s.sampleCount, rfl⟩
  | succ k ih =>
    obtain ⟨m, c, hk⟩ := ih fun ev hev => Nat.le_of_succ_le (hdue ev hev)
    rw [frames_succ, hk]
    refine ⟨_, _, frame_silent channels (s := { s with mem := m, sampleCount := c }) hidle fun ev hev => ?_⟩
    have := hdue ev hev
    omega

/-- Each frame of such a block mixes +0.0. -/
theorem mix_drained_silent (channels : Nat) {k : Nat} {s : State}
    (hidle : ∀ i, inUse s i = true → (voice s i).active = false) (hdue : ∀ ev ∈ s.queue, k < ev.offset.toNat) :
    (mixVoices (drained channels s k)).1 = Config.zero := by
  obtain ⟨m, c, hk⟩ := frames_silent channels hidle fun ev hev => (hdue ev hev).le
  have hnone : ∀ ev ∈ s.queue, ev.offset.toNat ≠ k := fun ev hev => (hdue ev hev).ne'
  rw [drained, hk, drainDue_of_none_due hnone, mixVoices_silent]
  exact hidle

/-- Settles O26: the block changes nothing but memory and SAMPLE_COUNT (`frames_silent`), and what it writes to each of
its words is the clamp of +0.0 (`mix_drained_silent`). -/
theorem silentBlockWritesZeros : Obligations.SilentBlockWritesZeros := by
  intro s channels n hc1 hc2 hn1 hn2 hprep hblock hstate hdue
  have hidle : ∀ i, inUse s i = true → (voice s i).active = false := fun i hi => by simp [Voice.active, hstate i hi]
  have hfields : processFieldsOk channels n = true := by simp [processFieldsOk, hc1, hc2, hn1, hn2]
  obtain ⟨m, count, hf⟩ := frames_silent channels.toNat hidle hdue
  refine ⟨_, exec_process hfields hprep hblock, ?_, ?_, ?_, fun c k hc hk => ?zeros⟩
  case zeros =>
    have hword := readWord_frames hn2 s hc hk
    rw [mix_drained_silent _ hidle fun ev hev => hk.trans_le (hdue ev hev)] at hword
    rw [outWord_eq _ (hc.trans_le hc2) (hk.trans_le hn2)]
    exact hword.trans (by decide)
  all_goals rw [frameLoop, hf]; rfl

end Sys2Proof.Machine
end

section
/-!
PROOFS. What PARAM_CHECK leaves of a number (45_commands.md R302). Its order of rounding and clamping makes no difference:
the bounds of an int or enum are integers, and rounding to an integer does not pass an integer.
-/

namespace Sys2Proof.Machine

/-! ## Comparisons of numbers by key -/

theorem fkey_lt_of_flt {a b : F32} (h : flt a b = true) : fkey a < fkey b := ((flt_iff a b).mp h).2.2

theorem fkey_eq_of_feq {a b : F32} (h : feq a b = true) : fkey a = fkey b := ((feq_iff a b).mp h).2.2

theorem not_flt_iff {a b : F32} (ha : fisNaN a = false) (hb : fisNaN b = false) :
    flt a b = false ↔ fkey b ≤ fkey a := by
  simp only [flt, ha, hb, Bool.not_false, Bool.true_and, decide_eq_false_iff_not, not_lt]

theorem natAbs_fkey (x : F32) : (fkey x).natAbs = fmag x := by
  unfold fkey
  split <;> omega

/-! ## Rounding to an integer (00 R9) -/

/-- Keys order as the values do. -/
theorem units_le_units_iff (x y : F32) : units x ≤ units y ↔ fkey x ≤ fkey y := by
  have hle : unitsOfMag (fmag x) ≤ unitsOfMag (fmag y) ↔ fmag x ≤ fmag y := unitsOfMag_strictMono.le_iff_le
  have hge : unitsOfMag (fmag y) ≤ unitsOfMag (fmag x) ↔ fmag y ≤ fmag x := unitsOfMag_strictMono.le_iff_le
  have hx0 : unitsOfMag (fmag x) ≤ unitsOfMag 0 ↔ fmag x ≤ 0 := unitsOfMag_strictMono.le_iff_le
  have hy0 : unitsOfMag (fmag y) ≤ unitsOfMag 0 ↔ fmag y ≤ 0 := unitsOfMag_strictMono.le_iff_le
  rw [unitsOfMag_zero] at hx0 hy0
  simp only [units, fkey, magUnits_eq]
  split <;> split <;> omega

theorem units_eq_of_fkey_eq {x y : F32} (h : fkey x = fkey y) : units x = units y :=
  le_antisymm ((units_le_units_iff x y).mpr h.le) ((units_le_units_iff y x).mpr h.ge)

/-- rne_int(x) is a nearest integer, and where two are as near the even one. -/
theorem rneInt_nearest (x : F32) : 2 * (units x - rneInt x * 2 ^ 149).natAbs ≤ 2 ^ 149 ∧
    (2 * (units x - rneInt x * 2 ^ 149).natAbs = 2 ^ 149 → rneInt x % 2 = 0) := by
  have hdef : rneInt x = if 2 ^ 149 < 2 * (units x % 2 ^ 149) ∨
      (2 * (units x % 2 ^ 149) = 2 ^ 149 ∧ units x / 2 ^ 149 % 2 = 1) then units x / 2 ^ 149 + 1
    else units x / 2 ^ 149 := rfl
  rw [hdef]
  split <;> omega

/-- Every integer up to 2^24 is a value. -/
theorem units_fofInt {n : Int} (hn : n.natAbs ≤ 2 ^ 24) : units (fofInt n) = n * 2 ^ 149 := by
  obtain ⟨k, hk⟩ := exists_unitsOfMag_eq hn 149
  have hfinite : k ≤ 0x7F800000 := by
    refine unitsOfMag_strictMono.le_iff_le.mp ?_
    rw [hk, unitsOfMag_infinity]
    omega
  have hmag : fmag (fofInt n) = k := by
    rw [← roundMag_unitsOfMag hfinite, hk]
    exact fmag_roundUnits ..
  have hsign : fsign (fofInt n) = decide (n < 0) := fsign_roundUnits ..
  simp only [units, magUnits_eq, hmag, hsign, hk, decide_eq_true_eq]
  split <;> omega

theorem fmag_le_infinity {y : F32} (h : fisNaN y = false) : fmag y ≤ 0x7F800000 :=
  not_lt.mp (of_decide_eq_false h)

theorem fkey_fofInt (n : Int) : fkey (fofInt n) =
    if n < 0 then -(roundMag (n.natAbs * 2 ^ 149) 1 : Int) else roundMag (n.natAbs * 2 ^ 149) 1 := by
  have hmag : fmag (fofInt n) = roundMag (n.natAbs * 2 ^ 149) 1 := fmag_roundUnits ..
  have hsign : fsign (fofInt n) = decide (n < 0) := fsign_roundUnits ..
  simp only [fkey, hmag, hsign, decide_eq_true_eq]

/-- Rounding an integer to binary32 does not pass a value that the integer does not pass. -/
theorem fkey_fofInt_le {n : Int} {y : F32} (hy : fisNaN y = false) (h : n * 2 ^ 149 ≤ units y) :
    fkey (fofInt n) ≤ fkey y := by
  have hup := roundMag_le (num := n.natAbs * 2 ^ 149) (k := fmag y) one_pos
  have hzero : unitsOfMag (fmag y) ≤ unitsOfMag 0 ↔ fmag y ≤ 0 := unitsOfMag_strictMono.le_iff_le
  have hlow := le_roundMag (num := n.natAbs * 2 ^ 149) one_pos (fmag_le_infinity hy)
  rw [unitsOfMag_zero] at hzero
  rw [fkey_fofInt]
  simp only [units, fkey, magUnits_eq] at h ⊢
  split at h <;> split <;> omega

theorem le_fkey_fofInt {n : Int} {y : F32} (hy : fisNaN y = false) (h : units y ≤ n * 2 ^ 149) :
    fkey y ≤ fkey (fofInt n) := by
  have hup := roundMag_le (num := n.natAbs * 2 ^ 149) (k := fmag y) one_pos
  have hlow := le_roundMag (num := n.natAbs * 2 ^ 149) one_pos (fmag_le_infinity hy)
  rw [fkey_fofInt]
  simp only [units, fkey, magUnits_eq] at h ⊢
  split at h <;> split <;> omega

theorem frne_of_finite {x : F32} (h : ffinite x = true) : frne x = fofInt (rneInt x) := by
  simp only [frne, h, Bool.not_true, Bool.false_eq_true, if_false]

theorem frne_of_not_finite {x : F32} (h : ¬ ffinite x = true) : frne x = x := if_pos (by simpa using h)

/-- Rounding to an integer does not pass an integer. -/
theorem frne_le {x b : F32} {m : Int} (hb : fisNaN b = false) (hm : units b = m * 2 ^ 149) (h : fkey x ≤ fkey b) :
    fkey (frne x) ≤ fkey b := by
  by_cases hfin : ffinite x = true
  · rw [frne_of_finite hfin]
    have hnear := (rneInt_nearest x).1
    have hle := (units_le_units_iff x b).mpr h
    exact fkey_fofInt_le hb (by omega)
  · rwa [frne_of_not_finite hfin]

theorem le_frne {x b : F32} {m : Int} (hb : fisNaN b = false) (hm : units b = m * 2 ^ 149) (h : fkey b ≤ fkey x) :
    fkey b ≤ fkey (frne x) := by
  by_cases hfin : ffinite x = true
  · rw [frne_of_finite hfin]
    have hnear := (rneInt_nearest x).1
    have hle := (units_le_units_iff b x).mpr h
    exact le_fkey_fofInt hb (by omega)
  · rwa [frne_of_not_finite hfin]

/-! ## The bounds of a row (10 R40) -/

/-- The bounds of an int or enum are integers from 0 to 16. -/
theorem paramRow_integral_units {p : Param} (h : paramIntegral p = true) : ∃ l u : Fin 17,
    units (paramRow p).lo = (l.val : Int) * 2 ^ 149 ∧ units (paramRow p).hi = (u.val : Int) * 2 ^ 149 := by
  revert h
  cases p <;> decide

/-- No bound is −0.0. -/
theorem fplusZero_bounds (p : Param) :
    fplusZero (paramRow p).lo = (paramRow p).lo ∧ fplusZero (paramRow p).hi = (paramRow p).hi := by
  cases p <;> decide

theorem fkey_clampTo {lo hi y : F32} (hlo : fisNaN lo = false) (hhi : fisNaN hi = false) (hy : fisNaN y = false) :
    fkey (clampTo lo hi y) = min (fkey hi) (max (fkey lo) (fkey y)) := by
  simp only [clampTo, flt, hlo, hhi, hy, Bool.not_false, Bool.true_and, decide_eq_true_eq]
  by_cases h : fkey y < fkey lo
  · simp only [h, if_true, hlo, Bool.not_false, Bool.true_and, decide_eq_true_eq]
    split <;> omega
  · simp only [h, if_false, hy, Bool.not_false, Bool.true_and, decide_eq_true_eq]
    split <;> omega

/-! ## PARAM_CHECK (45 R302) -/

/-- The number that PARAM_CHECK clamps. -/
def paramRounded (p : Param) (x : F32) : F32 := if paramIntegral p then frne x else x

theorem fkey_paramCheck (p : Param) {x : F32} (hx : fisNaN x = false) : fkey (paramCheck p x).1 =
    min (fkey (paramRow p).hi) (max (fkey (paramRow p).lo) (fkey (paramRounded p x))) := by
  obtain ⟨hlo, hhi, _⟩ := paramRow_numbers p
  have hnum : fisNaN (paramRounded p x) = false := by
    unfold paramRounded
    split
    · exact fisNaN_frne hx
    · exact hx
  rw [paramCheck_value, fkey_fplusZero]
  exact fkey_clampTo hlo hhi hnum

/-- A checked value with the key of b is b, a zero as +0.0. -/
theorem paramCheck_eq_of_fkey {p : Param} {x b : F32} (h : fkey (paramCheck p x).1 = fkey b) :
    (paramCheck p x).1 = fplusZero b := by
  rw [paramCheck_value, fkey_fplusZero] at h
  exact (paramCheck_value p x).trans (fplusZero_eq_of_fkey_eq h)

/-- A number that the check leaves numerically as it is is not reported as clamped. -/
theorem paramCheck_unclamped {p : Param} {x : F32} (hx : fisNaN x = false) (h : fkey (paramCheck p x).1 = fkey x) :
    paramCheck p x = (if feq x 0x00000000#32 then 0x00000000#32 else x, false) := by
  have hvalue := paramCheck_eq_of_fkey h
  have hflag : (paramCheck p x).2 = !feq (paramCheck p x).1 x := rfl
  have hnum : fisNaN (paramCheck p x).1 = false := hvalue ▸ fisNaN_fplusZero hx
  rw [(feq_iff _ _).mpr ⟨hnum, hx, h⟩] at hflag
  exact Prod.ext (hvalue.trans (fplusZero_eq x)) hflag

section
variable {p : Param} {x : F32}

theorem paramRounded_le_lo (h : fkey x ≤ fkey (paramRow p).lo) : fkey (paramRounded p x) ≤ fkey (paramRow p).lo := by
  unfold paramRounded
  split
  next hint =>
    obtain ⟨hnlo, _, _⟩ := paramRow_numbers p
    obtain ⟨l, _, hl, _⟩ := paramRow_integral_units hint
    exact frne_le hnlo hl h
  next => exact h

theorem hi_le_paramRounded (h : fkey (paramRow p).hi ≤ fkey x) : fkey (paramRow p).hi ≤ fkey (paramRounded p x) := by
  unfold paramRounded
  split
  next hint =>
    obtain ⟨_, hnhi, _⟩ := paramRow_numbers p
    obtain ⟨_, u, _, hu⟩ := paramRow_integral_units hint
    exact le_frne hnhi hu h
  next => exact h

variable (hx : fisNaN x = false)
include hx

theorem paramCheck_below (h : fkey x ≤ fkey (paramRow p).lo) : (paramCheck p x).1 = (paramRow p).lo := by
  obtain ⟨_, _, hle⟩ := paramRow_numbers p
  have hround := paramRounded_le_lo h
  rw [paramCheck_eq_of_fkey (b := (paramRow p).lo) (by rw [fkey_paramCheck p hx]; omega), (fplusZero_bounds p).1]

theorem paramCheck_above (h : fkey (paramRow p).hi ≤ fkey x) : (paramCheck p x).1 = (paramRow p).hi := by
  have hround := hi_le_paramRounded h
  rw [paramCheck_eq_of_fkey (b := (paramRow p).hi) (by rw [fkey_paramCheck p hx]; omega), (fplusZero_bounds p).2]

variable (hlo : fkey (paramRow p).lo ≤ fkey x) (hhi : fkey x ≤ fkey (paramRow p).hi)
include hlo hhi

/-- Between the bounds a number that rounding leaves numerically as it is stays. -/
theorem paramCheck_inside (h : fkey (paramRounded p x) = fkey x) :
    paramCheck p x = (if feq x 0x00000000#32 then 0x00000000#32 else x, false) :=
  paramCheck_unclamped hx (by rw [fkey_paramCheck p hx, h]; omega)

/-- Between integral bounds the check leaves the nearest integer. -/
theorem units_paramCheck_inside (hint : paramIntegral p = true) :
    units (paramCheck p x).1 = rneInt x * 2 ^ 149 := by
  obtain ⟨hnlo, hnhi, _⟩ := paramRow_numbers p
  obtain ⟨l, u, hl, hu⟩ := paramRow_integral_units hint
  obtain ⟨h0, h16⟩ := paramRow_integral_range hint
  have hkey : fkey (paramCheck p x).1 = fkey (frne x) := by
    have hlow := le_frne hnlo hl hlo
    have hhigh := frne_le hnhi hu hhi
    rw [fkey_paramCheck p hx, paramRounded, if_pos hint]
    omega
  have hfin : ffinite x = true := by
    rw [ffinite_iff, ← natAbs_fkey]
    omega
  have hnear := (rneInt_nearest x).1
  have hlow := (units_le_units_iff _ _).mpr hlo
  have hhigh := (units_le_units_iff _ _).mpr hhi
  rw [units_eq_of_fkey_eq hkey, frne_of_finite hfin, units_fofInt (by omega)]

end

theorem paramIntegral_iff (p : Param) : paramIntegral p = true ↔ (paramRow p).kind ≠ .real := bne_iff_ne

/-- A valid preset word is a number between the bounds that rounding leaves numerically as it is. -/
theorem presetValid_iff (p : Param) (x : F32) : presetValid p x = true ↔
    fisNaN x = false ∧ flt x (paramRow p).lo = false ∧ flt (paramRow p).hi x = false ∧
      ((paramRow p).kind ≠ .real → feq x (frne x) = true) := by
  simp only [presetValid, Bool.and_eq_true, Bool.not_eq_true', Bool.or_eq_true, ← paramIntegral_iff, and_assoc,
    ← Bool.not_eq_true, imp_iff_not_or]

/-- Settles O34: the value is stored as `paramStored_paramCheck` has it, below and above the domain it is the bound
(`paramCheck_below`, `paramCheck_above`), and inside it the number itself (`paramCheck_inside`) or for an int or enum the
nearest integer (`units_paramCheck_inside`, `rneInt_nearest`). -/
theorem paramCheckGivesDomainValue : Obligations.ParamCheckGivesDomainValue := by
  intro p x hx y
  obtain ⟨hnlo, hnhi, _⟩ := paramRow_numbers p
  refine ⟨paramStored_paramCheck p hx, rfl, fun hlt => paramCheck_below hx (fkey_lt_of_flt hlt).le,
    fun hlt => paramCheck_above hx (fkey_lt_of_flt hlt).le, fun hlo hhi => ?inside, fun hvalid => ?preset⟩
  case inside =>
    have hlo := (not_flt_iff hx hnlo).mp hlo
    have hhi := (not_flt_iff hnhi hx).mp hhi
    refine ⟨fun hreal => paramCheck_inside hx hlo hhi ?_, fun hkind => ⟨rneInt x, ?_, rneInt_nearest x⟩⟩
    · rw [paramRounded, if_neg ((paramIntegral_iff p).not.mpr (not_not.mpr hreal))]
    · exact units_paramCheck_inside hx hlo hhi ((paramIntegral_iff p).mpr hkind)
  case preset =>
    obtain ⟨_, hlo, hhi, hint⟩ := (presetValid_iff p x).mp hvalid
    refine paramCheck_inside hx ((not_flt_iff hx hnlo).mp hlo) ((not_flt_iff hnhi hx).mp hhi) ?_
    unfold paramRounded
    split
    next h => exact (fkey_eq_of_feq (hint ((paramIntegral_iff p).mp h))).symm
    next => rfl

end Sys2Proof.Machine
end

section
/-!
PROOFS. The rows of 45_commands.md R303 as Rules.recomputed writes them: one recomputation of the machine is the rule for
one parameter (`slotUpdate_eq`), and recomputing one more parameter, in ascending id, is the rule for the set with it
(`recomputed_recompute`).
-/

namespace Sys2Proof.Machine

/-! ## Sets of changed parameters -/

/-- The parameters of a row that EXC_DERIVE reads. -/
def lipRow : List Param := [.lipTension, .mouthPressure, .growlAmount, .lipMass, .lipStiffness]

/-- The parameters that R_EFF reads. -/
def reflectionRow : List Param := [.reflectionCoeff, .flareFactor, .boreShape]

/-- The parameters that gl or RG reads. -/
def boreRow : List Param := [.lengthMeters, .lossPerMeter, .reflectionCoeff, .flareFactor, .boreShape]

/-- The shaping controls of a bank. -/
def shapeRow : List Param := [.brightness, .warmth, .metalness]

/-- The parameters of the custom profile. -/
def customRow : List Param :=
  [.customFreq0, .customFreq1, .customFreq2, .customFreq3, .customGain0, .customGain1, .customGain2, .customGain3]

/-- The parameters that r[0] reads. -/
def ratio0Row : List Param := [.sub1Num, .sub1Den]

/-- The parameters that r[1] reads. -/
def ratio1Row : List Param := [.sub2Num, .sub2Den]

/-- The set `c` of parameters with `p` in it. -/
def withParam (c : Param → Bool) (p : Param) : Param → Bool := fun q => c q || decide (q = p)

theorem any_withParam (row : List Param) (c : Param → Bool) (p : Param) :
    row.any (withParam c p) = (row.any c || decide (p ∈ row)) := by
  rw [Bool.eq_iff_iff]
  simp only [withParam, List.any_eq_true, Bool.or_eq_true, decide_eq_true_eq]
  constructor
  · rintro ⟨q, hq, hc | rfl⟩
    · exact .inl ⟨q, hq, hc⟩
    · exact .inr hq
  · rintro (⟨q, hq, hc⟩ | hp)
    · exact ⟨q, hq, .inl hc⟩
    · exact ⟨p, hp, .inr rfl⟩

/-- gl and RG of a waveguide (42 R193). -/
def waveguideRow (t : State) (airLoss : F32) (g : Waveguide) : Waveguide :=
  { g with gl := Rules.lossGain t airLoss, rg := fmul t.rEff (Rules.lossGain t airLoss) }

/-- ba and bb of a bell (43 R211). -/
def bellRow (t : State) (scaleMeters : F32) (b : Bell) : Bell :=
  { b with ba := Rules.bellPole t scaleMeters, bb := fsub Config.one (Rules.bellPole t scaleMeters) }

/-- Channel 0 of a slot locked again (40 R155). -/
def channel0Row (t : State) (v : Voice) : PllChannel :=
  Rules.relocked t.sampleRate v.f v.pll.pref (param t .sub1Num) (param t .sub1Den) t.ratio0

/-- Channel 1 of a slot locked again (40 R155). -/
def channel1Row (t : State) (v : Voice) : PllChannel :=
  Rules.relocked t.sampleRate v.f v.pll.pref (param t .sub2Num) (param t .sub2Den) t.ratio1

/-- The formant rows for the parameters `c`: the shaping controls, the horn type, the custom profile, in that order. -/
def formantRows (c : Param → Bool) (t : State) (m : Formant) : Formant :=
  let m := if shapeRow.any c then Rules.reloaded t m else m
  let m := if c .hornType then Rules.switched t m else m
  if customRow.any c then Rules.reloaded t m else m

/-- Rules.recomputed by rows. -/
theorem recomputed_eq (c : Param → Bool) (t : State) (v : Voice) : Rules.recomputed c t v = { v with
    exc := if lipRow.any c then Rules.exciter t v.g v.f v.exc else v.exc
    wg := if boreRow.any c then waveguideRow t v.g.airLoss v.wg else v.wg
    bell := if c .bellCutoff then bellRow t v.g.scaleMeters v.bell else v.bell
    fmt := formantRows c t v.fmt
    pll := {
      v.pll with
      ch0 := if ratio0Row.any c then channel0Row t v else v.pll.ch0
      ch1 := if ratio1Row.any c then channel1Row t v else v.pll.ch1 } } := by
  simp only [Rules.recomputed, formantRows, waveguideRow, bellRow, channel0Row, channel1Row, lipRow, boreRow, shapeRow,
    customRow, ratio0Row, ratio1Row, List.any_cons, List.any_nil, Bool.or_false, Bool.or_assoc]

/-! ## One recomputation (`slotUpdate`) is the rule for one parameter -/

theorem voiceBankReload_eq (s : State) (v : Voice) :
    voiceBankReload s v = { v with fmt := Rules.reloaded s v.fmt } := by
  simp only [voiceBankReload, Rules.reloaded, bankLoad_eq, Formant.setBank, Formant.bank]
  split <;> rfl

theorem hornSwitch_eq (s : State) (v : Voice) :
    hornSwitch s (hornIndex s) v = { v with fmt := Rules.switched s v.fmt } := by
  have two : ∀ b : BitVec 1, b = 0 ∨ b = 1 := by decide
  simp only [hornSwitch, Rules.switched, bankLoad_eq, Formant.setBank, Formant.bank]
  rcases two v.fmt.cur with h | h <;> rw [h] <;> rfl

theorem slotUpdate_eq (p : Param) (s : State) (v : Voice) :
    slotUpdate p s v = Rules.recomputed (withParam (fun _ => false) p) s v := by
  cases p
  case brightness | warmth | metalness => exact voiceBankReload_eq s v
  case customFreq0 | customFreq1 | customFreq2 | customFreq3 => exact voiceBankReload_eq s v
  case customGain0 | customGain1 | customGain2 | customGain3 => exact voiceBankReload_eq s v
  case hornType => exact hornSwitch_eq s v
  all_goals rfl

/-! ## One more recomputation is the rule for the set with one more parameter -/

/-- Overwriting what the row may have written already, or leaving it. -/
theorem ite_withRow {α : Type} {a b : Bool} {f f' : α → α} (x : α) (same : b = false → f = f')
    (overwrites : f' (f x) = f' x) :
    (if b then f' (if a then f x else x) else if a then f x else x) = if a || b then f' x else x := by
  cases b with
  | true => cases a with
    | true => exact overwrites
    | false => rfl
  | false => rw [same rfl]; cases a <;> rfl

section
variable {c : Param → Bool} {s t : State} (params : s.params = t.params) (rate : s.sampleRate = t.sampleRate)
include params rate

theorem exciter_congr : Rules.exciter s = Rules.exciter t := by
  funext g f x
  simp only [Rules.exciter, param, params, rate]

theorem bellRow_congr : bellRow s = bellRow t := by
  funext x b
  simp only [bellRow, Rules.bellPole, param, params, rate]

theorem loaded_congr : Rules.loaded s = Rules.loaded t := by
  funext b
  simp only [← bankLoad_eq, hornIndex, param, params, bankLoad_congr _ b params rate]

theorem reloaded_congr : Rules.reloaded s = Rules.reloaded t := by
  funext m
  simp only [Rules.reloaded, loaded_congr params rate]

theorem switched_congr : Rules.switched s = Rules.switched t := by
  funext m
  simp only [Rules.switched, loaded_congr params rate]

omit rate in
theorem waveguideRow_congr (reff : s.rEff = t.rEff) : waveguideRow s = waveguideRow t := by
  funext x g
  simp only [waveguideRow, Rules.lossGain, param, params, reff]

theorem channel0Row_congr (r0 : s.ratio0 = t.ratio0) : channel0Row s = channel0Row t := by
  funext v
  simp only [channel0Row, param, params, rate, r0]

theorem channel1Row_congr (r1 : s.ratio1 = t.ratio1) : channel1Row s = channel1Row t := by
  funext v
  simp only [channel1Row, param, params, rate, r1]

/-- What the rule reads of the state it derives from. -/
theorem recomputed_congr (reff : s.rEff = t.rEff) (r0 : s.ratio0 = t.ratio0) (r1 : s.ratio1 = t.ratio1) :
    Rules.recomputed c s = Rules.recomputed c t := by
  funext v
  simp only [recomputed_eq, formantRows, exciter_congr params rate, bellRow_congr params rate,
    reloaded_congr params rate, switched_congr params rate, waveguideRow_congr params reff,
    channel0Row_congr params rate r0, channel1Row_congr params rate r1]

end

/-- Reloading the current bank again changes nothing: its state words were kept. -/
theorem reloaded_reloaded (t : State) (m : Formant) : Rules.reloaded t (Rules.reloaded t m) = Rules.reloaded t m := by
  by_cases h : m.cur = 0
  · simp only [Rules.reloaded, h, if_true, Rules.loaded]
  · simp only [Rules.reloaded, h, if_false, Rules.loaded]

/-- A parameter of a formant row, or of none. -/
theorem formantRow_cases (p : Param) :
    (p ∈ shapeRow ∧ p ≠ .hornType ∧ p ∉ customRow) ∨ (p ∉ shapeRow ∧ p = .hornType ∧ p ∉ customRow) ∨
      (p ∉ shapeRow ∧ p ≠ .hornType ∧ p ∈ customRow) ∨ (p ∉ shapeRow ∧ p ≠ .hornType ∧ p ∉ customRow) := by
  cases p <;> decide

section
variable {c : Param → Bool} {p : Param} (below : ∀ q, c q = true → paramRank q < paramRank p)
include below

/-- No parameter from p on is in a set of lower ids. -/
theorem eq_false_of_rank {q : Param} (hq : paramRank p ≤ paramRank q) : c q = false :=
  Bool.eq_false_iff.mpr fun hc => absurd (below q hc) (not_lt.mpr hq)

theorem any_eq_false_of_rank {row : List Param} (hrow : ∀ q ∈ row, paramRank p ≤ paramRank q) :
    row.any c = false :=
  List.any_eq_false.mpr fun q hq => Bool.eq_false_iff.mp (eq_false_of_rank below (hrow q hq))

/-- The formant rows in ascending id. -/
theorem formantRows_withParam (t : State) (m : Formant) :
    formantRows (withParam (fun _ => false) p) t (formantRows c t m) = formantRows (withParam c p) t m := by
  have horn (c : Param → Bool) : withParam c p .hornType = (c .hornType || decide (p = .hornType)) := by
    simp only [withParam, eq_comm]
  have none (row : List Param) : (row.any fun _ => false) = false := by simp
  have shapes : ∀ p ∈ shapeRow, (∀ q ∈ customRow, paramRank p ≤ paramRank q) ∧ paramRank p ≤ paramRank .hornType := by
    decide
  simp only [formantRows, any_withParam, horn, none, Bool.false_or]
  rcases formantRow_cases p with ⟨hs, hh, hc⟩ | ⟨hs, hh, hc⟩ | ⟨hs, hh, hc⟩ | ⟨hs, hh, hc⟩
  · have hcustom : customRow.any c = false := any_eq_false_of_rank below (shapes p hs).1
    have hhorn : c .hornType = false := eq_false_of_rank below (shapes p hs).2
    simp only [hs, hh, hc, hcustom, hhorn, decide_true, decide_false, Bool.or_true, Bool.or_false, if_true, if_false,
      Bool.false_eq_true]
    split
    · exact reloaded_reloaded t m
    · rfl
  · subst hh
    have hcustom : customRow.any c = false := any_eq_false_of_rank below (by decide)
    have hhorn : c .hornType = false := eq_false_of_rank below (le_refl _)
    simp only [hs, hc, hcustom, hhorn, decide_true, decide_false, Bool.or_true, Bool.or_false, if_true, if_false,
      Bool.false_eq_true]
  · simp only [hs, hh, hc, decide_true, decide_false, Bool.or_true, Bool.or_false, if_true, if_false,
      Bool.false_eq_true]
    generalize (if c .hornType then _ else _) = m'
    split
    · exact reloaded_reloaded t m'
    · rfl
  · simp only [hs, hh, hc, decide_false, Bool.or_false, if_false, Bool.false_eq_true]

end

/-- On a slot: the rule for one parameter, after the rule for parameters of lower ids, is the rule for them all. What
reads a global that the one parameter writes is written again with it, from the globals of `u`. -/
theorem recomputed_withParam {c : Param → Bool} {p : Param} {t u : State}
    (below : ∀ q, c q = true → paramRank q < paramRank p) (params : t.params = u.params)
    (rate : t.sampleRate = u.sampleRate) (reff : p ∉ reflectionRow → t.rEff = u.rEff)
    (r0 : p ∉ ratio0Row → t.ratio0 = u.ratio0) (r1 : p ∉ ratio1Row → t.ratio1 = u.ratio1) (v : Voice) :
    Rules.recomputed (withParam (fun _ => false) p) u (Rules.recomputed c t v) =
      Rules.recomputed (withParam c p) u v := by
  have bore : p ∉ boreRow → t.rEff = u.rEff := fun hp => reff fun hr => hp (List.mem_of_mem_drop (i := 2) hr)
  have none (row : List Param) : (row.any fun _ => false) = false := by simp
  have cutoff (c : Param → Bool) : withParam c p .bellCutoff = (c .bellCutoff || decide (p = .bellCutoff)) := by
    simp only [withParam, eq_comm]
  have formants : formantRows (withParam (fun _ => false) p) u (formantRows c t v.fmt) =
      formantRows (withParam c p) u v.fmt := by
    have htable : formantRows c t = formantRows c u := by
      funext m
      simp only [formantRows, reloaded_congr params rate, switched_congr params rate]
    rw [htable, formantRows_withParam below]
  rw [recomputed_eq _ u, recomputed_eq c t, recomputed_eq (withParam c p) u]
  simp only [Voice.mk.injEq, Pll.mk.injEq, any_withParam, cutoff, none, Bool.false_or, formants, and_true, true_and]
  refine ⟨⟨?channel0, ?channel1⟩, ?exciter, ?waveguide, ?bell⟩
  case channel0 =>
    exact ite_withRow (f := fun _ => channel0Row t v) (f' := fun _ => channel0Row u v) v.pll.ch0
      (fun hp => by rw [channel0Row_congr params rate (r0 (of_decide_eq_false hp))]) rfl
  case channel1 =>
    exact ite_withRow (f := fun _ => channel1Row t v) (f' := fun _ => channel1Row u v) v.pll.ch1
      (fun hp => by rw [channel1Row_congr params rate (r1 (of_decide_eq_false hp))]) rfl
  case exciter =>
    exact ite_withRow (f := Rules.exciter t v.g v.f) v.exc (fun _ => by rw [exciter_congr params rate]) rfl
  case waveguide =>
    exact ite_withRow (f := waveguideRow t v.g.airLoss) v.wg
      (fun hp => by rw [waveguideRow_congr params (bore (of_decide_eq_false hp))]) rfl
  case bell =>
    exact ite_withRow (f := bellRow t v.g.scaleMeters) v.bell (fun _ => by rw [bellRow_congr params rate]) rfl

/-! ## The state -/

/-- The globals of a row, as Rules.Recomputed derives them from the table. -/
theorem recompute_globals (p : Param) (t : State) :
    ((recompute p t).delay = if decide (p = .lengthMeters) then delayOf t else t.delay) ∧
    ((recompute p t).wgFund = if decide (p = .lengthMeters) then wgFundOf t else t.wgFund) ∧
    ((recompute p t).rEff = if decide (p ∈ reflectionRow) then rEffOf t else t.rEff) ∧
    ((recompute p t).ratio0 = if decide (p ∈ ratio0Row) then ratio0Of t else t.ratio0) ∧
    ((recompute p t).ratio1 = if decide (p ∈ ratio1Row) then ratio1Of t else t.ratio1) := by
  simp only [recompute_eq, mapLive_delay, mapLive_wgFund, mapLive_rEff, mapLive_ratio0, mapLive_ratio1]
  cases p <;> exact ⟨rfl, rfl, rfl, rfl, rfl⟩

theorem shapeReflection_eq (shape : Nat) (r fl : F32) : shapeReflection shape r fl = Rules.shaped shape r fl := by
  match shape with
  | 0 | 1 | 2 | _ + 3 => rfl

/-- What a recomputation leaves of the state beside the globals and the slots. -/
theorem recompute_config (p : Param) (t : State) : (recompute p t).params = t.params ∧
    (recompute p t).sampleRate = t.sampleRate ∧ (recompute p t).maxVoicesCfg = t.maxVoicesCfg := by
  obtain ⟨d, wf, re, r0, r1, vs, h⟩ := recompute_frame p t
  rw [h]
  exact ⟨rfl, rfl, rfl⟩

/-- A recomputation on a slot is the rule for its parameter. -/
theorem voice_recompute_rule (p : Param) (t : State) (i : Fin 16) : voice (recompute p t) i =
    if Rules.Live t i then Rules.recomputed (withParam (fun _ => false) p) (recompute p t) (voice t i)
    else voice t i := by
  have hstate : Rules.recomputed (withParam (fun _ => false) p) (globalUpdate p t) =
      Rules.recomputed (withParam (fun _ => false) p) (recompute p t) := by
    rw [recompute_eq]
    exact recomputed_congr (mapLive_params _ _).symm (mapLive_sampleRate _ _).symm (mapLive_rEff _ _).symm
      (mapLive_ratio0 _ _).symm (mapLive_ratio1 _ _).symm
  rw [voice_recompute, slotUpdate_eq, hstate]
  exact if_congr ((Bool.and_eq_true _ _).to_iff.trans (live_iff t i).symm) rfl rfl

/-- Rules.Recomputed by rows. -/
theorem recomputed_iff (c : Param → Bool) (s t : State) : Rules.Recomputed c s t ↔
    ((t.delay.toNat : Int) = if c .lengthMeters then
      min (max (rneInt (fdiv (fmul (param t .lengthMeters) s.sampleRate) Config.cSound)) 1) 32767
      else s.delay.toNat) ∧
    (t.wgFund = if c .lengthMeters then wgFundOf t else s.wgFund) ∧
    (t.rEff = if reflectionRow.any c then rEffOf t else s.rEff) ∧
    (t.ratio0 = if ratio0Row.any c then ratio0Of t else s.ratio0) ∧
    (t.ratio1 = if ratio1Row.any c then ratio1Of t else s.ratio1) ∧
    ∀ i, voice t i = if Rules.Live s i then Rules.recomputed c t (voice s i) else voice s i := by
  simp only [reflectionRow, ratio0Row, ratio1Row, List.any_cons, List.any_nil, Bool.or_false, ← Bool.or_assoc, rEffOf,
    shapeReflection_eq]
  exact Iff.rfl

/-- The globals are functions of the table and SAMPLE_RATE. -/
theorem globals_congr {s t : State} (params : s.params = t.params) :
    wgFundOf s = wgFundOf t ∧ rEffOf s = rEffOf t ∧ ratio0Of s = ratio0Of t ∧ ratio1Of s = ratio1Of t := by
  simp only [wgFundOf, rEffOf, ratio0Of, ratio1Of, param, params, and_self]

/-- A global that one more parameter of its row derives again. -/
theorem global_withRow {α : Type} {a b : Bool} {new old d d' x : α} (hnew : new = if b then d' else old)
    (hold : old = if a then d else x) (hd : d' = d) : new = if a || b then d else x := by
  subst hnew hold hd
  exact ite_withRow (f := fun _ => d') (f' := fun _ => d') x (fun _ => rfl) rfl

/-- Recomputing for one more parameter, of a higher id, is the rule for the set with it. -/
theorem recomputed_recompute {c : Param → Bool} {p : Param} {s t : State}
    (below : ∀ q, c q = true → paramRank q < paramRank p) (rate : t.sampleRate = s.sampleRate)
    (cfg : t.maxVoicesCfg = s.maxVoicesCfg) (h : Rules.Recomputed c s t) :
    Rules.Recomputed (withParam c p) s (recompute p t) := by
  rw [recomputed_iff] at h ⊢
  obtain ⟨delay, fund, reff, r0, r1, slots⟩ := h
  obtain ⟨delay', fund', reff', r0', r1'⟩ := recompute_globals p t
  obtain ⟨params, rate', _⟩ := recompute_config p t
  obtain ⟨hfund, hreff, hr0, hr1⟩ := globals_congr params
  have length : withParam c p .lengthMeters = (c .lengthMeters || decide (p = .lengthMeters)) := by
    simp only [withParam, eq_comm]
  simp only [any_withParam, length, param_congr params, hfund, hreff, hr0, hr1]
  refine ⟨?delay, global_withRow fund' fund rfl, global_withRow reff' reff rfl, global_withRow r0' r0 rfl,
    global_withRow r1' r1 rfl, fun i => ?slot⟩
  case delay =>
    refine global_withRow (?_ : _ = if _ then ((delayOf t).toNat : Int) else t.delay.toNat) delay ?_
    · rw [delay']
      split <;> rfl
    · rw [toNat_delayOf, rate]
  case slot =>
    have live : Rules.Live t i ↔ Rules.Live s i := by
      have hstate : (voice t i).state = (voice s i).state := by
        rw [slots i]
        split <;> rfl
      simp only [Rules.Live, cfg, hstate]
    have hslot := slots i
    rw [voice_recompute_rule]
    by_cases hlive : Rules.Live s i
    · rw [if_pos hlive] at hslot
      rw [if_pos (live.mpr hlive), if_pos hlive, hslot]
      refine recomputed_withParam below params.symm rate'.symm (fun hp => ?_) (fun hp => ?_) (fun hp => ?_) _
      · rw [reff', if_neg (by simpa using hp)]
      · rw [r0', if_neg (by simpa using hp)]
      · rw [r1', if_neg (by simpa using hp)]
    · rw [if_neg hlive] at hslot
      rw [if_neg (live.not.mpr hlive), if_neg hlive, hslot]

/-- With no parameter changed the rule recomputes nothing. -/
theorem recomputed_none {s t : State} (delay : t.delay = s.delay) (fund : t.wgFund = s.wgFund) (reff : t.rEff = s.rEff)
    (r0 : t.ratio0 = s.ratio0) (r1 : t.ratio1 = s.ratio1) (voices : t.voices = s.voices) :
    Rules.Recomputed (fun _ => false) s t := by
  refine ⟨congrArg (fun d : BitVec 15 => (d.toNat : Int)) delay, fund, reff, r0, r1, fun i => ?_⟩
  have hslot : voice t i = voice s i := by simp only [voice, voices]
  rw [hslot]
  exact (ite_self (c := Rules.Live s i) (voice s i)).symm

end Sys2Proof.Machine
end

section
/-!
PROOFS. SET_PARAM (45_commands.md R295, R303): the write and the recomputation of its row, and nothing else.
-/

namespace Sys2Proof.Machine

/-- An effect that leaves ERROR to its end ends with OK or VALUE_CLAMPED. -/
theorem finish_clamp {s t : State} (herror : t.error = s.error) (clamped : Bool) : finish s (.done t clamped) =
    { t with
      result := if clamped then .valueClamped else .ok
      error := s.error ||| (if clamped then 0x10#8 else 0x00#8) } := by
  rw [← herror]
  cases clamped <;> rfl

theorem storeParam_unchanged {p : Param} {x : F32} {s : State} (h : s.prepared = false ∨ feq x (param s p) = true) :
    storeParam p x s = setParam s p x := by
  rcases h with h | h <;> simp only [storeParam, h, Bool.not_true, Bool.and_false, Bool.false_and, Bool.false_eq_true,
    if_false]

/-- A write that changes the stored value recomputes the row of its parameter (45 R303). -/
theorem recomputed_storeParam {p : Param} {x : F32} {s : State} (hprep : s.prepared = true)
    (changed : feq x (param s p) = false) : Rules.Recomputed (fun q => decide (q = p)) s (storeParam p x s) := by
  rw [storeParam_changed hprep changed]
  exact recomputed_recompute (c := fun _ => false) (t := setParam s p x) nofun rfl rfl
    (recomputed_none rfl rfl rfl rfl rfl rfl)

/-- Settles O35: the command ends a checked write (`exec_setParam`, `finish_clamp`), which changes the table, the globals
and the slots only (`storeParam_frame`), and these by the row of its parameter (`recomputed_storeParam`). -/
theorem setParamCompletes : Obligations.SetParamCompletes := by
  intro s p number c code bits
  obtain ⟨d, wf, re, r0, r1, vs, hframe⟩ := storeParam_frame p c.1 s
  have herror : (storeParam p c.1 s).error = s.error := by rw [hframe]
  have hparams : (storeParam p c.1 s).params = (setParam s p c.1).params := by rw [hframe, setParam_params]
  have hexec := exec_setParam p number
  rw [finish_clamp herror] at hexec
  refine ⟨_, hexec, (param_congr hparams p).trans (param_setParam_same s p c.1), ?frame, fun hsame => ?same,
    fun hprep changed => recomputed_storeParam hprep changed⟩
  case frame =>
    generalize storeParam p c.1 s = u at hframe
    rw [hframe]
  case same =>
    rw [storeParam_unchanged hsame]
    rfl

end Sys2Proof.Machine
end

section
/-!
PROOFS. The preset image (45_commands.md R300, R301, R305): what SAVE_PARAMS writes is what LOAD_PARAMS reads, and a load
recomputes for the parameters whose stored value changed, one after the other in ascending id.
-/

namespace Sys2Proof.Machine

/-! ## Saving (45 R300) -/

theorem presetAt_eq (s : State) {i : Nat} (hi : i < 64) : presetAt s i = readWord s.mem (presetAddr i) := by
  have hregion : regionOf (presetAddr i) = .preset :=
    regionOf_preset (by unfold presetAddr; omega) (by unfold presetAddr presetBase presetEnd; omega)
  simp only [presetAt, busRead, hregion]

/-- The words of an image end where PRESET's first 33 do. -/
theorem presetIndex_lt (p : Param) : 2 + (paramRank p).val < 33 := by
  have : (paramRank p).val < 31 := (paramRank p).isLt
  omega

theorem presetAt_param (s : State) (p : Param) : presetAt s (2 + (paramRank p).val) = presetWord s p :=
  presetAt_eq s ((presetIndex_lt p).trans (by decide))

/-- The state a SAVE_PARAMS leaves. -/
def savedState (s : State) : State := { s with result := .ok, mem := writePreset s.mem 0 (presetImage s) }

theorem exec_saveParams (s : State) : exec (.saveParams 0 0) s = .next (savedState s) :=
  exec_done (t := { s with mem := writePreset s.mem 0 (presetImage s) }) rfl

section
variable {s u : State} (saved : u.mem = writePreset s.mem 0 (presetImage s))
include saved

/-- The words of a saved image, in order. -/
theorem presetAt_saved {k : Nat} (hk : k < (presetImage s).length) : presetAt u k = (presetImage s)[k] := by
  have hword := readWord_writePreset s.mem 0 (presetImage s) k hk
  rw [Nat.zero_add, ← saved] at hword
  rw [presetImage_length] at hk
  rw [presetAt_eq u (by omega)]
  exact hword

theorem presetAt_saved_magic : presetAt u 0 = 0x47485031#32 :=
  presetAt_saved saved (by rw [presetImage_length]; decide)

theorem presetAt_saved_count : presetAt u 1 = 31 :=
  presetAt_saved saved (by rw [presetImage_length]; decide)

theorem presetAt_saved_param (p : Param) : presetAt u (2 + (paramRank p).val) = param s p := by
  have hk : 2 + (paramRank p).val < (presetImage s).length := (presetImage_length s).symm ▸ presetIndex_lt p
  rw [presetAt_saved saved hk, presetImage_param]

end

/-- Settles O41: the image is read back word by word (`presetAt_saved`), and its 33 words are all that is written. -/
theorem saveParamsCompletes : Obligations.SaveParamsCompletes := by
  intro s
  refine ⟨_, exec_saveParams s, presetAt_saved_magic rfl, presetAt_saved_count rfl, presetAt_saved_param rfl,
    fun a ha => readByte_writePreset_outside _ _ _ _ ?_⟩
  rw [presetImage_length]
  simp only [presetAddr, presetBase]
  omega

/-! ## Loading (45 R301, R303) -/

theorem presetOk_iff (s : State) : presetOk s = true ↔ presetAt s 0 = 0x47485031#32 ∧ presetAt s 1 = 31 ∧
    ∀ p, presetValid p (presetAt s (2 + (paramRank p).val)) = true := by
  simp only [presetOk, Bool.and_eq_true, beq_iff_eq, List.all_eq_true, presetAt_param,
    presetAt_eq s (i := 0) (by omega), presetAt_eq s (i := 1) (by omega), and_assoc]
  exact and_congr Iff.rfl (and_congr Iff.rfl ⟨fun h p => h p (allParams_complete p), fun h p _ => h p⟩)

theorem allParams_ascending : allParams.Pairwise fun p q => paramRank p < paramRank q := by decide

/-- Recomputing along a list of ascending ids, for the parameters that are not `same`, is the rule for those. -/
theorem recomputed_foldl {same c : Param → Bool} {s t : State} {l : List Param}
    (ascending : l.Pairwise fun p q => paramRank p < paramRank q)
    (below : ∀ p ∈ l, ∀ q, c q = true → paramRank q < paramRank p) (rate : t.sampleRate = s.sampleRate)
    (cfg : t.maxVoicesCfg = s.maxVoicesCfg) (h : Rules.Recomputed c s t) :
    Rules.Recomputed (fun q => c q || (decide (q ∈ l) && !same q)) s
      (l.foldl (fun t p => if same p then t else recompute p t) t) := by
  induction l generalizing c t with
  | nil =>
    simp only [List.not_mem_nil, decide_false, Bool.false_and, Bool.or_false]
    exact h
  | cons p rest ih =>
    obtain ⟨hp, hrest⟩ := List.pairwise_cons.mp ascending
    rw [List.foldl_cons]
    by_cases hsame : same p = true
    · have hset : (fun q => c q || (decide (q ∈ p :: rest) && !same q)) =
          fun q => c q || (decide (q ∈ rest) && !same q) := by
        funext q
        by_cases hq : q = p
        · simp [hq, hsame]
        · simp [hq]
      rw [if_pos hsame, hset]
      exact ih hrest (fun q hq => below q (List.mem_cons_of_mem p hq)) rate cfg h
    · have hset : (fun q => c q || (decide (q ∈ p :: rest) && !same q)) =
          fun q => withParam c p q || (decide (q ∈ rest) && !same q) := by
        funext q
        by_cases hq : q = p
        · simp [withParam, hq, hsame]
        · simp [withParam, hq]
      obtain ⟨_, hrate, hcfg⟩ := recompute_config p t
      rw [if_neg hsame, hset]
      refine ih hrest (fun q hq r hr => ?_) (hrate.trans rate) (hcfg.trans cfg)
        (recomputed_recompute (below p List.mem_cons_self) rate cfg h)
      rcases Bool.or_eq_true_iff.mp hr with hr | hr
      · exact below q (List.mem_cons_of_mem p hq) r hr
      · rw [of_decide_eq_true hr]
        exact hp q hq

/-- A load recomputes the rows of the parameters whose stored value changed. -/
theorem recomputed_load (s : State) : Rules.Recomputed (fun p => !feq (param (commitPreset s) p) (param s p)) s
    (recomputeChanged s (commitPreset s)) := by
  obtain ⟨ps, hc⟩ := commitPreset_frame s
  have hbase : Rules.Recomputed (fun _ => false) s (commitPreset s) := by
    rw [hc]
    exact recomputed_none rfl rfl rfl rfl rfl rfl
  have h := recomputed_foldl (same := fun p => feq (param (commitPreset s) p) (param s p)) allParams_ascending
    (fun _ _ _ hnone => absurd hnone Bool.false_ne_true) (by rw [hc]) (by rw [hc]) hbase
  simp only [allParams_complete, decide_true, Bool.true_and, Bool.false_or] at h
  exact h

/-- The state a LOAD_PARAMS of a valid image leaves. -/
def loadedState (s : State) : State := if s.prepared then recomputeChanged s (commitPreset s) else commitPreset s

/-- Everything the rule of LOAD_PARAMS can do, by the image. -/
theorem run_loadParams (s : State) :
    run (.loadParams 0 0) s = if presetOk s then .done (loadedState s) false else .failed .presetInvalid := by
  simp only [run, runLoadParams, loadedState, ne_eq, not_true_eq_false, or_self, if_false]
  cases presetOk s <;> cases s.prepared <;> rfl

/-- A load changes the table, the derived globals and the voice table only, and the table as the commit does. -/
theorem loadedState_frame (s : State) : ∃ d wf re r0 r1 vs, loadedState s =
    { s with
      params := (commitPreset s).params, delay := d, wgFund := wf, rEff := re, ratio0 := r0, ratio1 := r1
      voices := vs } := by
  obtain ⟨ps, hc⟩ := commitPreset_frame s
  unfold loadedState
  split
  · obtain ⟨d, wf, re, r0, r1, vs, hr⟩ := recomputeChanged_frame s (commitPreset s)
    exact ⟨d, wf, re, r0, r1, vs, by rw [hr, hc]⟩
  · exact ⟨_, _, _, _, _, _, by rw [hc]⟩

/-- Settles O42: the check of the image is the statement's (`presetOk_iff`, `presetValid_iff`); a valid one is committed
whole (`param_commitPreset`) and on a prepared core followed by the rows of what changed (`recomputed_load`). -/
theorem loadParamsCompletes : Obligations.LoadParamsCompletes := by
  intro s valid
  have hvalid : presetOk s = true ↔ valid := by
    simp only [presetOk_iff, presetValid_iff, valid]
  refine ⟨fun h => ?valid, fun h => exec_failed ((run_loadParams s).trans (if_neg (hvalid.not.mpr h)))⟩
  case valid =>
    obtain ⟨d, wf, re, r0, r1, vs, hframe⟩ := loadedState_frame s
    have htable (p : Param) : param (loadedState s) p = param (commitPreset s) p := param_congr (by rw [hframe]) p
    refine ⟨_, exec_done ((run_loadParams s).trans (if_pos (hvalid.mpr h))), ?frame, fun p => ?committed,
      fun hprep => ?unprepared, fun hprep => ?prepared⟩
    case frame =>
      generalize loadedState s = u at hframe
      rw [hframe]
    case committed =>
      refine (htable p).trans ?_
      rw [param_commitPreset, presetAt_param, fplusZero_eq]
    case unprepared =>
      obtain ⟨ps, hc⟩ := commitPreset_frame s
      have hload : loadedState s = commitPreset s := if_neg (by simp [hprep])
      rw [hload, hc]
    case prepared =>
      have hload : loadedState s = recomputeChanged s (commitPreset s) := if_pos hprep
      have hrows := recomputed_load s
      simp only [← htable, ← hload] at hrows
      exact hrows

/-! ## The round trip (45 R305) -/

/-- A stored number is a valid preset word, and it is not −0.0. -/
theorem presetValid_of_paramStored {p : Param} {x : F32} (h : paramStored p x = true) :
    presetValid p x = true ∧ fplusZero x = x := by
  simp only [paramStored, Bool.and_eq_true, bne_iff_ne, Bool.or_eq_true, Bool.not_eq_true', beq_iff_eq] at h
  obtain ⟨⟨⟨hlo, hhi⟩, hminus⟩, hint⟩ := h
  obtain ⟨hnlo, hnum, hlo⟩ := (fle_iff _ _).mp hlo
  obtain ⟨_, hnhi, hhi⟩ := (fle_iff _ _).mp hhi
  refine ⟨(presetValid_iff p x).mpr ⟨hnum, (not_flt_iff hnum hnlo).mpr hlo, (not_flt_iff hnhi hnum).mpr hhi,
    fun hkind => ?integral⟩, ?plus⟩
  case integral =>
    have hrne : frne x = x := hint.resolve_left (by simp [(paramIntegral_iff p).mpr hkind])
    rw [hrne]
    exact feq_self hnum
  case plus =>
    rcases fplusZero_cases x with ⟨hzero, he⟩ | ⟨_, he⟩
    · have hlt := x.isLt
      have hne : x.toNat ≠ 0x80000000 := fun h => hminus (BitVec.eq_of_toNat_eq h)
      have : x = Config.zero := BitVec.eq_of_toNat_eq (show x.toNat = 0 by unfold fmag at hzero; omega)
      rw [he, this]
    · exact he

/-- A table just saved is a valid image. -/
theorem presetOk_saved {s : State} (h : ParamsLegal s) : presetOk (savedState s) = true := by
  refine (presetOk_iff _).mpr ⟨presetAt_saved_magic rfl, presetAt_saved_count rfl, fun p => ?_⟩
  rw [presetAt_saved_param rfl]
  exact (presetValid_of_paramStored (h p)).1

/-- Committing a table just saved leaves it. -/
theorem commitPreset_saved {s : State} (h : ParamsLegal s) : commitPreset (savedState s) = savedState s := by
  have hparams : (commitPreset (savedState s)).params = (savedState s).params := params_ext fun p => by
    rw [param_commitPreset, ← presetAt_param, presetAt_saved_param rfl, (presetValid_of_paramStored (h p)).2]
    rfl
  obtain ⟨ps, hc⟩ := commitPreset_frame (savedState s)
  rw [hc] at hparams ⊢
  exact congrArg (fun ps => { savedState s with params := ps }) hparams

/-- With every stored value equal to itself, a load of the saved image recomputes nothing. -/
theorem loadedState_saved {s : State} (h : ParamsLegal s) : loadedState (savedState s) = savedState s := by
  have number (p : Param) : fisNaN (param s p) = false :=
    ((presetValid_iff p _).mp (presetValid_of_paramStored (h p)).1).1
  rw [loadedState, commitPreset_saved h,
    recomputeChanged_same (savedState s) (savedState s) fun p => feq_self (number p), ite_self]

/-- Settles O43: the saved image is valid (`presetOk_saved`), and loading it leaves the state as SAVE_PARAMS left it
(`loadedState_saved`). -/
theorem presetRoundTrip : Obligations.PresetRoundTrip := by
  intro s t hlegal h
  obtain rfl := Host.Outcome.next.inj ((exec_saveParams s).symm.trans h)
  rw [exec_done ((run_loadParams _).trans (if_pos (presetOk_saved hlegal))), loadedState_saved hlegal]
  rfl

end Sys2Proof.Machine
end

section
/-!
PROOFS. How a command ends (60_exceptions.md R320, R321; 10_state.md R36, R37): a failing rule has no effect, and no
rule touches ERROR before its end sets the one bit of its code.
-/

namespace Sys2Proof.Machine

/-- Settles O16: a rule that fails leaves the state it began with, and one that is done ends with OK or VALUE_CLAMPED
(`exec_cases`). -/
theorem failedCommandChangesNothing : Obligations.FailedCommandChangesNothing := by
  intro i s t h hok hclamped
  rcases exec_cases h with ⟨c, _, rfl⟩ | ⟨u, clamped, _, rfl⟩
  · rfl
  · cases clamped with
    | false => exact absurd rfl hok
    | true => exact absurd rfl hclamped

/-! ## The code and its bit -/

/-- What a command does before its end is nothing to ERROR. -/
theorem Effect.error {s t : State} {i : Instr} (h : Effect s i t) : t.error = s.error := by
  cases h with
  | process =>
    obtain ⟨vs, q, k, c, m, hf⟩ := frameLoop_frame _ _ s
    rw [hf]
  | setParam p =>
    obtain ⟨d, wf, re, r0, r1, vs, hf⟩ := storeParam_frame p _ s
    rw [hf]
  | commit =>
    obtain ⟨ps, hf⟩ := commitPreset_frame s
    rw [hf]
  | load =>
    obtain ⟨ps, d, wf, re, r0, r1, vs, hf⟩ := load_frame s
    rw [hf]
  | noteOnNow n g =>
    obtain ⟨vs, k, hf⟩ := noteOnExec_frame s n g
    rw [hf]
  | noteOnNowOff n force | noteOffNow n force => rw [noteOffExec_frame]
  | nothing | prepare | getParam | saveParams | enqueueOn | enqueueOff => rfl

/-- A check that fails with another code leaves it to the rest of the rule. -/
theorem check_ne_badOpcode {P : Prop} [Decidable P] {c : ResultCode} {r : CmdResult} (hcode : c ≠ .badOpcode)
    (hrest : r ≠ .failed .badOpcode) : (if P then .failed c else r) ≠ .failed .badOpcode := by
  split
  · exact fun h => hcode (CmdResult.failed.inj h)
  · exact hrest

theorem tryEnqueue_ne_badOpcode (kind : EventKind) (note : BitVec 7) (ofs : BitVec 15) (clamped : Bool) (s : State) :
    tryEnqueue kind note ofs clamped s ≠ .failed .badOpcode := check_ne_badOpcode nofun nofun

/-- A header with a defined OP is no BAD_OPCODE (30 R118): no rule has a check that fails with it. -/
theorem run_ne_badOpcode (i : Instr) (s : State) : run i s ≠ .failed .badOpcode := by
  cases i with
  | nop | saveParams => exact check_ne_badOpcode nofun nofun
  | prepare | noteOffNow => exact check_ne_badOpcode nofun (check_ne_badOpcode nofun nofun)
  | process => exact check_ne_badOpcode nofun (check_ne_badOpcode nofun (check_ne_badOpcode nofun nofun))
  | setParam a bHigh id =>
    refine check_ne_badOpcode nofun ?_
    cases paramOfId id with
    | none => nofun
    | some p => exact check_ne_badOpcode nofun nofun
  | getParam a bHigh id =>
    refine check_ne_badOpcode nofun ?_
    cases paramOfId id <;> nofun
  | loadParams =>
    refine check_ne_badOpcode nofun (check_ne_badOpcode nofun ?_)
    split <;> nofun
  | noteOn r note f ofs =>
    refine check_ne_badOpcode nofun (check_ne_badOpcode nofun ?_)
    cases gestureCheck (gestureArgs s) with
    | badValue => nofun
    | isOff => exact tryEnqueue_ne_badOpcode (.noteOff false) note ofs false s
    | on g clamped => exact tryEnqueue_ne_badOpcode (.noteOn g) note ofs clamped s
  | noteOff r note f ofs =>
    exact check_ne_badOpcode nofun (check_ne_badOpcode nofun
      (tryEnqueue_ne_badOpcode (.noteOff (f == 1)) note ofs false s))
  | noteOnNow =>
    refine check_ne_badOpcode nofun (check_ne_badOpcode nofun ?_)
    cases gestureCheck (gestureArgs s) <;> nofun

/-- Every command ends with a code of its own, and ERROR gains the bit of that code. -/
theorem exec_ends (i : Instr) (s : State) :
    ∃ t, exec i s = .next t ∧ t.result ≠ .badOpcode ∧ t.error = s.error ||| errorBit t.result := by
  refine ⟨_, exec_run i s, ?_⟩
  rcases exec_cases (exec_run i s) with ⟨c, hr, ht⟩ | ⟨u, clamped, hr, ht⟩ <;> rw [ht]
  · exact ⟨fun hc : c = .badOpcode => run_ne_badOpcode i s (hc ▸ hr), rfl⟩
  · rw [endCommand_error, endCommand_result, (run_effect hr).error]
    exact ⟨by cases clamped <;> nofun, rfl⟩

theorem ResultCode.num_pos {c : ResultCode} (hc : c ≠ .ok) : 0 < c.num := by
  cases c with
  | ok => exact absurd rfl hc
  | notPrepared | badOpcode | badField | unknownParam | valueClamped | badValue | eqFull | presetInvalid => decide

/-- The bit of a code c other than OK is bit c − 1 (10 R36). -/
theorem getLsbD_errorBit (c : ResultCode) {k : Nat} (hk : k < 8) :
    (errorBit c).getLsbD k = decide (c.num = k + 1) := by
  by_cases hc : c = .ok
  · simp [hc, ResultCode.num]
  · have hpos : 0 < c.num := ResultCode.num_pos hc
    rw [errorBit, if_neg hc, BitVec.getLsbD_ofNat, Nat.testBit_two_pow, decide_eq_true hk, Bool.true_and,
      decide_eq_decide]
    omega

theorem busRead_result_toNat (s : State) : (busRead s 0x010).toNat = s.result.num := by
  have hword : busRead s 0x010 = resultWord s := busRead_regOffset s .result
  have hlt : s.result.num < 2 ^ 32 := by cases s.result <;> decide
  rw [hword, resultWord, BitVec.toNat_ofNat, Nat.mod_eq_of_lt hlt]

theorem getLsbD_busRead_error (s : State) {k : Nat} (hk : k < 8) : (busRead s 0x00C).getLsbD k = s.error.getLsbD k := by
  have hword : busRead s 0x00C = errorWord s := busRead_regOffset s .error
  rw [hword, errorWord, BitVec.zeroExtend, BitVec.getLsbD_setWidth, decide_eq_true (by omega), Bool.true_and]

/-- Settles O17: the end of a command puts the bit of its code into ERROR (`exec_ends`), and the bus reads both
registers. -/
theorem errorsAreRecordedAndStick : Obligations.ErrorsAreRecordedAndStick := by
  intro i s
  obtain ⟨t, hexec, hcode, herror⟩ := exec_ends i s
  refine ⟨t, hexec, hcode, fun k hk => ?_⟩
  rw [getLsbD_busRead_error t hk, getLsbD_busRead_error s hk, busRead_result_toNat, herror, BitVec.getLsbD_or,
    getLsbD_errorBit _ hk]

end Sys2Proof.Machine
end

section
/-!
PROOFS. Which error a command reports (60_exceptions.md R322, R323): its checks in their order, and that a NaN passes
none.
-/

namespace Sys2Proof.Machine

/-! ## The order of the checks (60 R323) -/

theorem prepareFieldsOk_eq_false_iff (voices : BitVec 8) (block : BitVec 16) : prepareFieldsOk voices block = false ↔
    voices.toNat = 0 ∨ 16 < voices.toNat ∨ block.toNat = 0 ∨ 4096 < block.toNat := by
  simp only [prepareFieldsOk, Config.maxVoices, Config.maxBlock, Bool.and_eq_false_iff, decide_eq_false_iff_not]
  omega

theorem sampleRateOk_eq_false_iff (fs : F32) : sampleRateOk fs = false ↔
    fisNaN fs = true ∨ flt fs 0x45FA0000#32 = true ∨ flt 0x483B8000#32 fs = true := by
  simp only [sampleRateOk, Bool.and_eq_false_iff, Bool.not_eq_false', or_assoc]

theorem processFieldsOk_eq_false_iff (channels : BitVec 8) (n : BitVec 16) : processFieldsOk channels n = false ↔
    channels.toNat = 0 ∨ 2 < channels.toNat ∨ n.toNat = 0 ∨ 4096 < n.toNat := by
  simp only [processFieldsOk, Config.maxChannels, Config.maxBlock, Bool.and_eq_false_iff, decide_eq_false_iff_not]
  omega

/-- PREPARE refuses a field or a sample rate out of range (30 R117). -/
theorem exec_prepare_refused {voices : BitVec 8} {block : BitVec 16} {s : State}
    (h : prepareFieldsOk voices block = false ∨ sampleRateOk (argValue s 0) = false) :
    exec (.prepare voices block) s = .next { s with result := .badField, error := s.error ||| 0x04#8 } :=
  exec_failed (c := .badField) ((run_prepare voices block s).trans (if_neg (by simpa [or_iff_not_imp_left] using h)))

/-- Everything the rule of PROCESS can do, by its three checks in their order. -/
theorem run_process (channels : BitVec 8) (n : BitVec 16) (s : State) : run (.process channels n) s =
    if processFieldsOk channels n = false then .failed .badField
    else if s.prepared = false then .failed .notPrepared
    else if s.blockSize.toNat < n.toNat then .failed .badField
    else .done (frameLoop channels.toNat n.toNat s) false := by
  simp only [run, runProcess, Bool.not_eq_true']

section
variable {s : State} (hprep : s.prepared = false)
include hprep

theorem run_noteOn_unprepared (note : BitVec 7) (ofs : BitVec 15) :
    run (.noteOn 0 note 0 ofs) s = .failed .notPrepared := by
  simp [run, runNoteOn, hprep]

theorem run_noteOff_unprepared (note : BitVec 7) (f : BitVec 1) (ofs : BitVec 15) :
    run (.noteOff 0 note f ofs) s = .failed .notPrepared := by
  simp [run, runNoteOff, hprep]

theorem run_noteOnNow_unprepared (note : BitVec 7) : run (.noteOnNow 0 note 0) s = .failed .notPrepared := by
  simp [run, runNoteOnNow, hprep]

theorem run_noteOffNow_unprepared (note : BitVec 7) (f : BitVec 1) :
    run (.noteOffNow 0 note f 0) s = .failed .notPrepared := by
  simp [run, runNoteOffNow, hprep]

end

/-- Settles O18: PREPARE has range checks only (`exec_prepare_refused`), PROCESS its three in order (`run_process`), and
a note command of an unprepared core comes to no check of its operands or of the queue. -/
theorem errorsInPriorityOrder : Obligations.ErrorsInPriorityOrder := by
  intro s badField notPrepared
  refine ⟨fun voices block h => ?prepare, fun channels n => ?process, fun hprep note ofs f => ?notes⟩
  case prepare =>
    refine exec_prepare_refused ?_
    rw [prepareFieldsOk_eq_false_iff, sampleRateOk_eq_false_iff]
    simpa only [or_assoc] using h
  case process =>
    have hrun := run_process channels n s
    simp only [processFieldsOk_eq_false_iff] at hrun
    split_ifs at hrun ⊢ <;> exact exec_failed hrun
  case notes =>
    exact ⟨exec_failed (run_noteOn_unprepared hprep note ofs), exec_failed (run_noteOff_unprepared hprep note f ofs),
      exec_failed (run_noteOnNow_unprepared hprep note), exec_failed (run_noteOffNow_unprepared hprep note f)⟩

/-! ## NaN operands (60 R322) -/

theorem run_setParam_nan {s : State} (hnan : fisNaN (argValue s 0) = true) (p : Param) :
    run (.setParam 0 0 (paramRow p).id) s = .failed .badValue := by
  simp [run, runSetParam, paramOfId_id, hnan]

/-- One NaN among the nine values fails the gesture check (45 R304). -/
theorem gestureCheck_nan {s : State} {k : Fin 9} (hnan : fisNaN (argValue s k) = true) :
    gestureCheck (gestureArgs s) = .badValue := by
  refine if_pos ?_
  simp only [Gesture.hasNaN, gestureArgs, Bool.or_eq_true]
  fin_cases k <;> simp_all

/-- A NaN is no valid word of an image (45 R301), so it makes the image invalid. -/
theorem presetOk_nan {s : State} {p : Param} (hnan : fisNaN (presetAt s (2 + (paramRank p).val)) = true) :
    ¬ presetOk s = true := by
  intro hok
  obtain ⟨_, _, hvalid⟩ := (presetOk_iff s).mp hok
  obtain ⟨number, _⟩ := (presetValid_iff p _).mp (hvalid p)
  rw [number] at hnan
  cases hnan

/-- Settles O19: a NaN sample rate is out of range (`sampleRateOk_eq_false_iff`), a NaN value fails its check
(`run_setParam_nan`, `gestureCheck_nan`), and so does an image that holds one (`presetOk_nan`). -/
theorem naNOperandsRefused : Obligations.NaNOperandsRefused := by
  intro s
  refine ⟨fun hnan voices block => ?prepare, fun hnan p => ?setParam, fun ⟨k, hnan⟩ hprep note ofs => ?notes,
    fun ⟨p, hnan⟩ => ?loadParams⟩
  case prepare => exact exec_prepare_refused (.inr ((sampleRateOk_eq_false_iff _).mpr (.inl hnan)))
  case setParam => exact exec_failed (run_setParam_nan hnan p)
  case notes =>
    refine ⟨exec_failed (c := .badValue) ?_, exec_failed (c := .badValue) ?_⟩
    · simp [run, runNoteOn, hprep, gestureCheck_nan hnan]
    · simp [run, runNoteOnNow, hprep, gestureCheck_nan hnan]
  case loadParams => exact exec_failed ((run_loadParams s).trans (if_neg (presetOk_nan hnan)))

end Sys2Proof.Machine
end

section
/-!
PROOFS. The reset state and the reset input (70_reset_and_hazards.md R350, R351). The words computed from the pool are those
of a pool of Idle slots; every other word is a field of the state, and the parameters are the column of resets of the table.
-/

namespace Sys2Proof.Machine

/-! ## The words of a pool of Idle slots (10 R51) -/

section
variable {s : State} (idle : ∀ i, (voice s i).state = .idle)
include idle

theorem active_eq_false_of_idle (i : Fin 16) : (voice s i).active = false := by
  simp [Voice.active, idle i]

theorem activeCount_eq_zero : activeCount s = 0 := by
  simp [activeCount, active_eq_false_of_idle idle]

theorem activeMask_eq_zero : activeMask s = 0 := by
  refine BitVec.eq_of_getLsbD_eq fun k _ => ?_
  rw [zero_bit]
  rcases lt_or_ge k 16 with slot | above
  · exact (activeMask_slot s ⟨k, slot⟩).trans (active_eq_false_of_idle idle _)
  · exact activeMask_above s k above

theorem voiceStateWord_eq_zero : voiceStateWord s = 0 := by
  refine BitVec.eq_of_getLsbD_eq fun k hk => ?_
  rw [voiceStateWord, getLsbD_states_foldl _ _ _ _ hk]
  simp [idle, VoiceState.num]

end

/-! ## The reset state -/

theorem voice_reset_idle (i : Fin 16) : (voice State.reset i).state = .idle := by rw [voice_reset, Voice.reset]

theorem allParams_getElem_rank (p : Param) : allParams[paramRank p] = p := by cases p <;> rfl

/-- A parameter holds the reset value of its row of the table (10 R40). -/
theorem param_reset (p : Param) : param State.reset p = (paramRow p).reset :=
  calc param State.reset p = (allParams.map fun q => (paramRow q).reset)[paramRank p] := rfl
    _ = (paramRow allParams[paramRank p]).reset := List.getElem_map _
    _ = (paramRow p).reset := by rw [allParams_getElem_rank]

theorem arg_reset (i : Fin 9) : regRead State.reset (.arg i) = 0 := by
  simp [regRead, State.reset]

/-! ## The reset input -/

/-- The reset input leaves the reset state and the acts still to come, whatever the state was (70 R350). -/
theorem step_reset {s : State} {rest : List HostAct} (h : s.pending = .reset :: rest) :
    step s = .next { State.reset with pending := rest } := by
  simp [step, performNext, perform, hostReset, h]

/-- Settles O15: the three introspection words are those of a pool of Idle slots, the parameters the table's resets
(`param_reset`), every other clause a field of the reset state; the reset input is `step_reset`. -/
theorem resetState : Obligations.ResetState := by
  refine ⟨?values, fun s rest h => step_reset h⟩
  refine ⟨rfl, rfl, rfl, rfl, rfl, rfl, rfl, rfl, arg_reset, rfl, rfl, rfl, rfl, param_reset, rfl, rfl, rfl, rfl, rfl, rfl,
    fun i => ⟨voice_reset_idle i, ?forceOff⟩, rfl, rfl, rfl, rfl, rfl, rfl, ?count, activeMask_eq_zero voice_reset_idle,
    voiceStateWord_eq_zero voice_reset_idle, rfl, rfl, rfl⟩
  case forceOff => rw [voice_reset, Voice.reset]
  case count => exact congrArg (BitVec.ofNat 32) (activeCount_eq_zero voice_reset_idle)

end Sys2Proof.Machine
end
